-- ==== Sys2Proof/Word.lean ====
section
/-! DEFINITION. The value domain. A cell value, an address, the instruction pointer and every counter is a natural number
(00_scope.md rule R7); a cell is one whole number and no rule reads part of one (rule R8, 20_memory.md rule R67), so this model
has no bit vector and its values have the type `Nat`. -/

namespace Sys2Proof

/-- A value that fits `w` bits: a natural number below `2^w` (00_scope.md rule R7). -/
def fitsBits (w v : Nat) : Bool := decide (v < 2 ^ w)

end Sys2Proof
end

