-- ==== Sys2Proof/Config.lean ====
section
/-! DEFINITION. The OPEN parameters of the core (00_scope.md rule R6), arguments of the model: a build has one value of each
and nothing changes it. `LOAD_VALUE_MAX` belongs to the out-of-scope parser and is no parameter of the core (rules R5, R6). -/

namespace Sys2Proof

/-- The OPEN parameters of one build (00_scope.md rule R6; 92_eei_decisions.md D1 and D21). -/
structure Config where
  /-- `WORD_BITS`: the width of a cell value in bits; `none` is unbounded naturals. -/
  wordBits : Option Nat
  /-- `MEM_MAX`: the largest image length the core accepts; `none` is unbounded. -/
  memMax : Option Nat
deriving DecidableEq, Repr

/-- The defaults of 00_scope.md rule R6: both parameters `none`. -/
def Config.standard : Config := { wordBits := none, memMax := none }

end Sys2Proof
end

