-- ==== Sys2Proof/Machine/Domain.lean ====
section
/-! DEFINITION. The checks that a finite `WORD_BITS` or `MEM_MAX` adds (00_scope.md rules R6 and R7). -/

namespace Sys2Proof

/-- A value lies in the value domain: any natural with `WORD_BITS = none`, one below `2^w` with `WORD_BITS = w`
(00_scope.md rule R7). -/
def Config.fits (c : Config) (v : Nat) : Bool :=
  match c.wordBits with
  | none => true
  | some w => fitsBits w v

/-- An image of `n` cells is not longer than a finite `MEM_MAX` (42_host_commands.md rule R160). -/
def Config.fitsLength (c : Config) (n : Nat) : Bool :=
  match c.memMax with
  | none => true
  | some m => decide (n ≤ m)

/-- The core can hold an image: its length and every value fit (42_host_commands.md rules R160 and R169). -/
def Config.fitsImage (c : Config) (image : List Nat) : Bool :=
  c.fitsLength image.length && image.all c.fits

end Sys2Proof
end

