-- ==== Sys2Proof/Syntax.lean ====
section
/-! DEFINITION. The instructions: one constructor per row of spec/opcode_table.json (30_encoding.md rule R99). -/

namespace Sys2Proof

/-- A decoded instruction (30_encoding.md rules R91, R92, R93). The fields of ADD and MUL are absolute cell addresses,
whatever values the cells hold (rules R97, R98). -/
inductive Instr where
  /-- ADD, opcode 1, format Q (40_alu.md rule R121). -/
  | add (aPos bPos destPos : Nat)
  /-- MUL, opcode 2, format Q (40_alu.md rule R122). -/
  | mul (aPos bPos destPos : Nat)
  /-- HLT, opcode 99, format H (41_halt_and_sequencing.md rule R140). -/
  | hlt
deriving DecidableEq, Repr

end Sys2Proof
end

