-- ==== Sys2Proof/WellFormed.lean ====
section
/-! DEFINITION. Well-formed instructions: every field is a cell value of the build (00_scope.md rule R7). Decode does not check
the fields against `MEM_LEN` (30_encoding.md rule R97), so no address is ill-formed for being large. -/

namespace Sys2Proof

/-- Every address field is a value a cell of this build can hold (00_scope.md rule R7, 30_encoding.md rule R98). -/
def Instr.wf (c : Config) : Instr → Bool
  | .add aPos bPos destPos => c.fits aPos && c.fits bPos && c.fits destPos
  | .mul aPos bPos destPos => c.fits aPos && c.fits bPos && c.fits destPos
  | .hlt => true

end Sys2Proof
end

