-- ==== Sys2Proof/Decode.lean ====
section
/-! DEFINITION. The decoder DEC (30_encoding.md rules R90 to R99, R103, R108) and, after it, the encoder.
An instruction is a window of whole cells, not a pattern of bits. -/

namespace Sys2Proof

/-- The opcode of ADD (00_scope.md rule R6 `OP_ADD`). -/
def opAdd : Nat := 1
/-- The opcode of MUL (00_scope.md rule R6 `OP_MUL`). -/
def opMul : Nat := 2
/-- The opcode of HLT (00_scope.md rule R6 `OP_HLT`). -/
def opHlt : Nat := 99

/-- What decoding a window gives: an instruction or one of the two decode faults (30_encoding.md rule R91). -/
inductive Decoded where
  | instr (i : Instr)
  /-- The opcode cell holds none of 1, 2, 99 (rule R103). -/
  | badOpcode (op : Nat)
  /-- The window has too few cells: `avail` of them (rule R96). -/
  | shortWindow (avail : Nat)
deriving DecidableEq, Repr

/-- The dispatch algorithm of 30_encoding.md rule R96 on the cells from `IP` to the end of memory. The opcode is compared
whole (rule R95) and looked at before the window's length. -/
def decodeWindow : List Nat → Decoded
  | [] => .shortWindow 0
  | op :: operands =>
    if op = opHlt then .instr .hlt
    else if op = opAdd ∨ op = opMul then
      match operands with
      | aPos :: bPos :: destPos :: _ =>
        if op = opAdd then .instr (.add aPos bPos destPos) else .instr (.mul aPos bPos destPos)
      | [] => .shortWindow 1
      | [_] => .shortWindow 2
      | [_, _] => .shortWindow 3
    else .badOpcode op

/-- Decode as a function of `MEM` and `IP` (30_encoding.md rules R90 and R91). -/
def decode (mem : List Nat) (ip : Nat) : Decoded := decodeWindow (mem.drop ip)

/-! ## The encoder -/

/-- The opcode cell of an instruction (30_encoding.md rule R99). -/
def Instr.opcode : Instr → Nat
  | .add _ _ _ => opAdd
  | .mul _ _ _ => opMul
  | .hlt => opHlt

/-- The cells of an instruction (30_encoding.md rules R92, R93 and R107). -/
def encode : Instr → List Nat
  | .add aPos bPos destPos => [opAdd, aPos, bPos, destPos]
  | .mul aPos bPos destPos => [opMul, aPos, bPos, destPos]
  | .hlt => [opHlt]

/-- The number of cells decode needs (30_encoding.md rule R94). -/
def Instr.windowCells : Instr → Nat
  | .add _ _ _ => 4
  | .mul _ _ _ => 4
  | .hlt => 1

/-! ## The numbering of spec/opcode_table.json

DESIGN CHOICE, unsafe, log entry 11: the table gives a cell no width in bits, so a word of the table is read as four cells of
64 bits, the first cell lowest. Nothing in `step` uses this. -/

/-- The bits given to one cell in a word of the opcode table (DESIGN CHOICE, log entry 11). -/
def tableCellBits : Nat := 64

/-- The four cells of a table word of `nbits` bits, the bits above `nbits` being 0. -/
def tableCells (nbits w : Nat) : List Nat :=
  [w % 2 ^ nbits % 2 ^ tableCellBits,
   w % 2 ^ nbits / 2 ^ tableCellBits % 2 ^ tableCellBits,
   w % 2 ^ nbits / 2 ^ (2 * tableCellBits) % 2 ^ tableCellBits,
   w % 2 ^ nbits / 2 ^ (3 * tableCellBits) % 2 ^ tableCellBits]

/-- The instruction the decoder reads from a word numbered as spec/opcode_table.json numbers it. -/
def decodeTableWord (nbits w : Nat) : Option Instr :=
  match decodeWindow (tableCells nbits w) with
  | .instr i => some i
  | .badOpcode _ => none
  | .shortWindow _ => none

/-- The table word of a list of cells, the first cell lowest (log entry 11). -/
def tableWordOf : List Nat → Nat
  | [] => 0
  | v :: rest => v + 2 ^ tableCellBits * tableWordOf rest

/-- The table word of an instruction (log entry 11). -/
def encodeTableWord (i : Instr) : Nat := tableWordOf (encode i)

end Sys2Proof
end

