-- ==== Sys2Proof/Machine/Flags.lean ====
section
/-! DEFINITION. The core has no condition codes, status flags or predicates (10_state.md rule R24). The one condition an
arithmetic result can give is the signal *overflow* of a finite `WORD_BITS` (40_alu.md rules R120 and R124), which is a fault. -/

namespace Sys2Proof.Machine

/-- The exact result does not fit a finite `WORD_BITS` (40_alu.md rule R124); never true with `WORD_BITS = none`. -/
def overflows (c : Config) (result : Nat) : Bool := !c.fits result

end Sys2Proof.Machine
end

