-- ==== Sys2Proof/Machine/Alu.lean ====
section
/-! DEFINITION. The ALU, a pure function of an operation and two values (40_alu.md rules R120, R123, R124). -/

namespace Sys2Proof.Machine

/-- The two operations of the ALU (40_alu.md rule R120). -/
inductive AluOp where
  | add
  | mul
deriving DecidableEq, Repr

/-- The exact natural-number result (40_alu.md rule R123). -/
def aluExact (op : AluOp) (x y : Nat) : Nat :=
  match op with
  | .add => x + y
  | .mul => x * y

/-- The ALU's output: a value, or none for the signal *overflow* (40_alu.md rules R120 and R124). -/
def alu (c : Config) (op : AluOp) (x y : Nat) : Option Nat :=
  if overflows c (aluExact op x y) then none else some (aluExact op x y)

end Sys2Proof.Machine
end

