-- ==== Sys2Proof/Machine/Command.lean ====
section
/-! DEFINITION. The registers the host can name, the host commands and their responses (42_host_commands.md, 43_search.md), and
the named values of the status registers (10_state.md). None of these is an instruction. -/

namespace Sys2Proof.Machine

/-- The run state of the Machine, register `STATE` (10_state.md rule R26). -/
inductive RunState where
  | running
  | halted
  | faulted
deriving DecidableEq, Repr

/-- The cause of a fault, register `FCAUSE` (10_state.md rule R27, 60_exceptions.md rule R211). -/
inductive FaultCause where
  /-- `STATE` is not `Faulted`. -/
  | none
  | decodeBadOpcode
  | decodeShortWindow
  | addrOOB
  | arithOverflow
  | patchOOB
  /-- Reserved and never written (60_exceptions.md rule R218). -/
  | stepLimit
deriving DecidableEq, Repr

/-- The instruction field that held an out-of-bounds address, register `FSLOT` (10_state.md rule R27). -/
inductive FaultSlot where
  | none
  | aPos
  | bPos
  | destPos
deriving DecidableEq, Repr

/-- The search state, register `SSTATE` (10_state.md rule R32). -/
inductive SearchState where
  | idle
  | searching
  | found
  | notFound
deriving DecidableEq, Repr

/-- The phase of the search controller (43_search.md rule R197). -/
inductive Phase where
  | idle
  | load (n v : Nat)
  | exec (n v : Nat)
  | check (n v : Nat)
  | done
deriving DecidableEq, Repr

/-- The registers GET can name: those of 10_state.md rule R35 other than the arrays `MEM` and `BASE`
(42_host_commands.md rule R167). -/
inductive Register where
  | memLen
  | ip
  | state
  | fcause
  | finfo
  | fslot
  | baseLen
  | target
  | noun
  | verb
  | nounLo
  | nounHi
  | verbLo
  | verbHi
  | sstate
  | answer
  | sfcnt
deriving DecidableEq, Repr

/-- The host commands (42_host_commands.md rules R160 to R170, 43_search.md rule R180). -/
inductive Command where
  | load (image : List Nat)
  | patch (position : Nat) (value : Nat)
  | run
  | result
  | peek (address : Nat)
  | get (register : Register)
  | setRange (nlo nhi vlo vhi : Nat)
  | reset
  | search (target : Nat)
deriving DecidableEq, Repr

/-- The responses of the host commands (42_host_commands.md rules R160 to R169, 43_search.md rule R180). -/
inductive Response where
  /-- LOAD, PATCH, SETRANGE completed. -/
  | done
  /-- PATCH raised PatchOOB (rule R163). -/
  | faulted
  /-- RUN ended in `Halted` (rule R164). -/
  | halted
  /-- RUN ended in `Faulted`, with the fault record (rule R164). -/
  | runFaulted (cause : FaultCause) (info : Nat) (slot : FaultSlot)
  /-- RESULT in `Halted` (rule R165). -/
  | valid (v : Nat)
  /-- RESULT in `Running` or `Faulted` (rule R165). -/
  | invalid
  /-- PEEK and GET (rules R166 and R167). -/
  | value (v : Nat)
  /-- SEARCH found its first match (43_search.md rule R188). -/
  | found (noun verb : Nat) (answer : Nat)
  /-- SEARCH exhausted its range (43_search.md rule R189). -/
  | notFound
  /-- The precondition does not hold (rule R169). -/
  | refused
deriving DecidableEq, Repr

/-- The code of `STATE` (10_state.md rule R26). -/
def RunState.code : RunState → Nat
  | .running => 0
  | .halted => 1
  | .faulted => 2

/-- The code of `FCAUSE` (60_exceptions.md rule R211). -/
def FaultCause.code : FaultCause → Nat
  | .none => 0
  | .decodeBadOpcode => 1
  | .decodeShortWindow => 2
  | .addrOOB => 3
  | .arithOverflow => 4
  | .patchOOB => 5
  | .stepLimit => 6

/-- The code of `FSLOT` (60_exceptions.md rule R211). -/
def FaultSlot.code : FaultSlot → Nat
  | .none => 0
  | .aPos => 1
  | .bPos => 2
  | .destPos => 3

/-- The code of `SSTATE` (10_state.md rule R32). -/
def SearchState.code : SearchState → Nat
  | .idle => 0
  | .searching => 1
  | .found => 2
  | .notFound => 3

end Sys2Proof.Machine
end

