-- ==== Sys2Proof/Machine/State.lean ====
section
/-! DEFINITION. The architectural state (10_state.md rules R20 to R38), the reasons a meaning can stop, and reset
(70_reset_and_hazards.md rule R250). -/

namespace Sys2Proof.Machine

/-- The whole state. Every field but the last four is a piece of state of 10_state.md rule R20 or of the reset table of
70_reset_and_hazards.md rule R250; `MEM_LEN` and `BASE_LEN` are the lengths of `mem` and `base` (log entry 2). -/
structure State where
  /-- `MEM`, an array of `MEM_LEN` cells, each one natural number (rule R25, 20_memory.md rule R67): a list in address order,
  so that equal memories are equal lists (DEDUCED, safe, log entry 1). -/
  mem : List Nat
  /-- `IP` (rule R23). -/
  ip : Nat
  /-- `STATE` (rule R26). -/
  runState : RunState
  /-- `FCAUSE` (rule R27). -/
  fcause : FaultCause
  /-- `FINFO` (rule R27). -/
  finfo : Nat
  /-- `FSLOT` (rule R27). -/
  fslot : FaultSlot
  /-- `BASE`, the baseline snapshot (rule R28). -/
  base : List Nat
  /-- `TARGET` (rule R29). -/
  target : Nat
  /-- `NOUN` (rule R30). -/
  noun : Nat
  /-- `VERB` (rule R30). -/
  verb : Nat
  /-- `NOUN_LO` (rule R31). -/
  nounLo : Nat
  /-- `NOUN_HI` (rule R31). -/
  nounHi : Nat
  /-- `VERB_LO` (rule R31). -/
  verbLo : Nat
  /-- `VERB_HI` (rule R31). -/
  verbHi : Nat
  /-- `SSTATE` (rule R32). -/
  sstate : SearchState
  /-- `ANSWER` (rule R33). -/
  answer : Nat
  /-- `SFCNT` (rule R34). -/
  sfcnt : Nat
  /-- The phase of the search controller (43_search.md rule R197, 70_reset_and_hazards.md rule R250). -/
  phase : Phase
  /-- The model's own: the OPEN parameters of this build, which nothing changes (DESIGN CHOICE, log entry 3). -/
  cfg : Config
  /-- The model's own: a RUN command is in progress (DESIGN CHOICE, log entry 5). -/
  runActive : Bool
  /-- The model's own: the host's commands not yet accepted, oldest first (DESIGN CHOICE, log entry 4). -/
  pending : List Command
  /-- The model's own: the response to the last completed command (DESIGN CHOICE, log entry 4). -/
  response : Option Response
deriving DecidableEq, Repr

/-- The reasons `exec` can stop with a fault. The core's own faults (60_exceptions.md rule R210) are none of these: their
entry is a next state (rule R216). -/
inductive Fault where
  /-- Raised by every meaning applied in a state with `STATE` not `Running`, where 41_halt_and_sequencing.md rule R141 takes
  no step. `step` never raises it. Safe: no effect is claimed where the spec gives none (log entry 10). -/
  | notRunning
deriving DecidableEq, Repr

/-- The reasons `exec` can refuse an instruction. -/
inductive Refusal where
  /-- An arm of `exec` whose instruction has no meaning yet: none in this model. Safe. -/
  | notModelled (mnemonic : String)
deriving DecidableEq, Repr

/-- What one step or one meaning answers. -/
abbrev Outcome := Host.Outcome State Fault Refusal

/-- `MEM_LEN`, the number of cells of the working memory (10_state.md rule R25; log entry 2). -/
abbrev State.memLen (s : State) : Nat := s.mem.length

/-- `BASE_LEN`, the number of cells of the baseline snapshot (10_state.md rule R28; log entry 2). -/
abbrev State.baseLen (s : State) : Nat := s.base.length

/-- The state after hardware reset of a core built with the parameters `c` (70_reset_and_hazards.md rule R250). -/
def State.initial (c : Config) : State :=
  { mem := [], ip := 0, runState := .running, fcause := .none, finfo := 0, fslot := .none,
    base := [], target := 0, noun := 0, verb := 0,
    nounLo := 0, nounHi := 99, verbLo := 0, verbHi := 99,
    sstate := .idle, answer := 0, sfcnt := 0, phase := .idle,
    cfg := c, runActive := false, pending := [], response := none }

/-- The machine right after reset (70_reset_and_hazards.md rule R250), in the build with the defaults of 00_scope.md rule R6. -/
def State.reset : State := State.initial Config.standard

end Sys2Proof.Machine
end

