-- ==== Sys2Proof/Machine/Ops.lean ====
section
/-! DEFINITION. The named operations over memory and registers: the memory controller MC (20_memory.md), fault entry
(60_exceptions.md rule R216) with the one way out of `Faulted` beside it, and the sequencer's updates of `IP` and `STATE`. -/

namespace Sys2Proof.Machine

/-- The fixed instruction width by which `IP` advances (00_scope.md rule R6 `STRIDE`). -/
def stride : Nat := 4
/-- The value of `IP` at the start of every run (00_scope.md rule R6 `ENTRY`). -/
def entry : Nat := 0
/-- The address the result is read from (00_scope.md rule R6 `RESULT_ADDR`). -/
def resultAddr : Nat := 0
/-- The address the noun is patched into (00_scope.md rule R6 `NOUN_ADDR`). -/
def nounAddr : Nat := 1
/-- The address the verb is patched into (00_scope.md rule R6 `VERB_ADDR`). -/
def verbAddr : Nat := 2
/-- The factor of the composite value (00_scope.md rule R6 `COMPOSITE_FACTOR`). -/
def compositeFactor : Nat := 100

/-- The canonical form of a memory in a build: every cell holds a value of the domain and the length is one LOAD accepts
(00_scope.md rule R7, 10_state.md rule R35). A list in address order needs nothing else to be canonical (log entry 1). -/
def Memory.wf (c : Config) (m : List Nat) : Bool := c.fitsImage m

/-! ## The memory controller -/

/-- An address is in bounds if and only if it is below `MEM_LEN` (20_memory.md rule R63). -/
def inBounds (s : State) (a : Nat) : Bool := decide (a < s.memLen)

/-- `MemRead(a, 1)`: the value of cell `a`, or none for out of bounds (20_memory.md rule R64). -/
def memRead (s : State) (a : Nat) : Option Nat := s.mem[a]?

/-- `MEM[a] <- v` for an address already found in bounds (20_memory.md rule R65). -/
def store (s : State) (a : Nat) (v : Nat) : State := { s with mem := s.mem.set a v }

/-- `MemWrite(a, 1, v)`: the state after the write, or none for out of bounds (20_memory.md rule R65). -/
def memWrite (s : State) (a : Nat) (v : Nat) : Option State :=
  if inBounds s a then some (store s a v) else none

/-! ## Taking a fault, and leaving `Faulted` -/

/-- Fault entry: `raise <Fault>(info, slot)` (60_exceptions.md rule R216). `IP`, `MEM` and every other register stay. -/
def raise (s : State) (cause : FaultCause) (info : Nat) (slot : FaultSlot) : State :=
  { s with runState := .faulted, fcause := cause, finfo := info, fslot := slot }

/-- The sequencer's *clear* control (41_halt_and_sequencing.md rule R151). There is no return from a fault
(60_exceptions.md rule R223): LOAD, RESET and the search's restore leave `Faulted` by this and replace the memory. -/
def clear (s : State) : State :=
  { s with ip := entry, runState := .running, fcause := .none, finfo := 0, fslot := .none }

/-! ## The sequencer's registers -/

/-- `IP <- IP + 4` (41_halt_and_sequencing.md rule R144). -/
def advance (s : State) : State := { s with ip := s.ip + stride }

/-- `STATE <- Halted` (41_halt_and_sequencing.md rule R140). -/
def halt (s : State) : State := { s with runState := .halted }

/-- A meaning applies only where the sequencer takes a step, in `Running` (41_halt_and_sequencing.md rule R141; log entry 10). -/
def whenRunning (s : State) (next : State) : Outcome :=
  match s.runState with
  | .running => .next next
  | .halted => .fault .notRunning
  | .faulted => .fault .notRunning

/-! ## The patch of a cell -/

/-- The precondition of PATCH (42_host_commands.md rule R162). -/
def patchAllowed (s : State) (v : Nat) : Bool := decide (s.runState = .running) && s.cfg.fits v

/-- The effect of PATCH whose precondition holds: the write, or PatchOOB (42_host_commands.md rules R162 and R163). -/
def patchCell (s : State) (position : Nat) (v : Nat) : State :=
  match memWrite s position v with
  | some t => t
  | none => raise s .patchOOB position .none

/-! ## Placing an instruction's cells -/

/-- A memory with `cells` at address `a` on, cells before `a` that do not exist being made with value 0 (log entry 12). -/
def placeCells (m : List Nat) (a : Nat) (cells : List Nat) : List Nat :=
  m.take a ++ List.replicate (a - m.length) 0 ++ cells ++ m.drop (a + cells.length)

/-- The search controller goes to a phase (43_search.md rule R197). -/
def toPhase (s : State) (p : Phase) : State := { s with phase := p }

/-- The host's commands still waiting are `rest` (00_scope.md rule R11; log entry 4). -/
def withPending (s : State) (rest : List Command) : State := { s with pending := rest }

/-- Write the response of a completed command (42_host_commands.md; log entry 4). -/
def respond (s : State) (r : Response) : State := { s with response := some r }

end Sys2Proof.Machine
end

