-- ==== Sys2Proof/Machine/Operands.lean ====
section
/-! DEFINITION. The one operand form, absolute direct (30_encoding.md rule R98, 40_alu.md rule R126). -/

namespace Sys2Proof.Machine

/-- The effective address of a field is the field's value itself (40_alu.md rule R126). -/
def effectiveAddress (field : Nat) : Nat := field

/-- The bounds-checked value of a source operand (20_memory.md rule R64). -/
def readOperand (s : State) (field : Nat) : Option Nat := memRead s (effectiveAddress field)

/-- The bounds check of a destination field (60_exceptions.md rule R214). -/
def destInBounds (s : State) (field : Nat) : Bool := inBounds s (effectiveAddress field)

/-- The write of a destination already found in bounds (40_alu.md rules R121 and R122). -/
def writeDest (s : State) (field : Nat) (v : Nat) : State := store s (effectiveAddress field) v

end Sys2Proof.Machine
end

