-- ==== Sys2Proof/Machine/Arith.lean ====
section
/-! DEFINITION. ADD and MUL (40_alu.md rules R121, R122, R125): lines 7 to 14 of the step algorithm
(41_halt_and_sequencing.md rule R143). -/

namespace Sys2Proof.Machine

/-- The effect shared by ADD and MUL. The checks come in the order `a_pos`, `b_pos`, `dest_pos`, overflow (60_exceptions.md
rules R214 and R221); both operands are read before the write (20_memory.md rule R73). A source's check and its read are one
`MemRead` here: a read has no effect (rule R69), so the order against the later checks is not observable (log entry 15). -/
def arithNext (op : AluOp) (aPos bPos destPos : Nat) (s : State) : State :=
  match readOperand s aPos with
  | none => raise s .addrOOB aPos .aPos
  | some x =>
    match readOperand s bPos with
    | none => raise s .addrOOB bPos .bPos
    | some y =>
      if destInBounds s destPos then
        match alu s.cfg op x y with
        | none => raise s .arithOverflow 0 .none
        | some r => advance (writeDest s destPos r)
      else raise s .addrOOB destPos .destPos

/-- ADD (40_alu.md rule R121). -/
def execAdd (aPos bPos destPos : Nat) (s : State) : Outcome :=
  whenRunning s (arithNext .add aPos bPos destPos s)

/-- MUL (40_alu.md rule R122). -/
def execMul (aPos bPos destPos : Nat) (s : State) : Outcome :=
  whenRunning s (arithNext .mul aPos bPos destPos s)

end Sys2Proof.Machine
end

