-- ==== Sys2Proof/Machine/System.lean ====
section
/-! DEFINITION. HLT, the core's only system instruction (41_halt_and_sequencing.md rule R140). -/

namespace Sys2Proof.Machine

/-- HLT: `STATE <- Halted`; `IP`, `MEM` and the fault record stay (41_halt_and_sequencing.md rules R140 and R146). -/
def execHlt (s : State) : Outcome := whenRunning s (halt s)

end Sys2Proof.Machine
end

