-- ==== Sys2Proof/Machine/Dispatch.lean ====
section
/-! DEFINITION. The dispatch of a decoded instruction to its meaning, one arm per constructor of `Instr`. -/

namespace Sys2Proof.Machine

def exec (i : Instr) (s : State) : Host.Outcome State Fault Refusal :=
  match i with
  | .add aPos bPos destPos => Sys2Proof.Machine.execAdd aPos bPos destPos s
  | .mul aPos bPos destPos => Sys2Proof.Machine.execMul aPos bPos destPos s
  | .hlt => Sys2Proof.Machine.execHlt s

end Sys2Proof.Machine
end

