-- ==== Sys2Proof/Machine/Sequencer.lean ====
section
/-! DEFINITION. The sequencer SEQ: one instruction step and the run loop (41_halt_and_sequencing.md rules R141 to R151). -/

namespace Sys2Proof.Machine

/-- One step of the sequencer, taken only in `Running`: decode at `IP` (lines 1 to 6 of 41_halt_and_sequencing.md rule R143),
then the instruction's meaning or the decode fault (60_exceptions.md rules R212 and R213). -/
def sequencerStep (s : State) : Outcome :=
  match decode s.mem s.ip with
  | .instr i => exec i s
  | .badOpcode op => .next (raise s .decodeBadOpcode op .none)
  | .shortWindow avail => .next (raise s .decodeShortWindow avail .none)

/-- At most `fuel` steps of `run()`: a step while `STATE = Running` (41_halt_and_sequencing.md rule R147). A step in `Running`
always has a next state, so the two last arms are never taken. -/
def runFuel : Nat → State → State
  | 0, s => s
  | fuel + 1, s =>
    if s.runState = .running then
      match sequencerStep s with
      | .next t => runFuel fuel t
      | .fault _ => s
      | .refused _ => s
    else s

/-- `run()`, whole (41_halt_and_sequencing.md rule R147): the steps rule R148 says are enough. -/
def runToEnd (s : State) : State := runFuel (s.memLen / stride + 1) s

/-- The response of a RUN that has ended (42_host_commands.md rule R164). -/
def runResponse (s : State) : Response :=
  if s.runState = .halted then .halted else .runFaulted s.fcause s.finfo s.fslot

/-- A RUN command ends: its response is given (42_host_commands.md rule R164; log entry 5). -/
def finishRun (s : State) : State := respond { s with runActive := false } (runResponse s)

/-- `s` with `cells` at `IP` on, a RUN in progress and `STATE = Running` with the fault record clear: the next step fetches the
first of them (log entry 12). -/
def readyToRun (cells : List Nat) (s : State) : State :=
  { s with
    mem := placeCells s.mem s.ip cells
    runState := .running
    fcause := .none
    finfo := 0
    fslot := .none
    runActive := true }

end Sys2Proof.Machine
end

