-- ==== Sys2Proof/Machine/Search.lean ====
section
/-! DEFINITION. The search controller SRCH (43_search.md): the parts of a candidate, the transitions of rule R197, and the
algorithm of rule R182 as a whole. -/

namespace Sys2Proof.Machine

/-- `restore()`: the snapshot is copied over the working memory and the Machine made fresh (43_search.md rule R184). -/
def restore (s : State) : State := clear { s with mem := s.base }

/-- One PATCH of a candidate, made only in `Running`. Out of bounds it raises PatchOOB whatever the value, "for every candidate
alike" (43_search.md rule R185, 60_exceptions.md rule R217); in bounds, a value a finite `WORD_BITS` cannot hold is not written
(42_host_commands.md rule R162; DEDUCED, unsafe, log entry 9). -/
def patchStep (position : Nat) (v : Nat) (s : State) : State :=
  match s.runState with
  | .running => if inBounds s position && !s.cfg.fits v then s else patchCell s position v
  | .halted => s
  | .faulted => s

/-- `patch_candidate(n, v)`: noun before verb, the second only if the first did not fault (43_search.md rule R185). -/
def patchCandidate (n v : Nat) (s : State) : State :=
  patchStep verbAddr v (patchStep nounAddr n s)

/-- The action of the phase `Load(n, v)`, less the change of phase (43_search.md rule R197). -/
def setUpCandidate (n v : Nat) (s : State) : State :=
  patchCandidate n v (restore { s with noun := n, verb := v })

/-- The match test: the run ended `Halted` with the target at address 0 (43_search.md rule R187). -/
def candidateMatches (s : State) : Bool :=
  decide (s.runState = .halted) && decide (memRead s resultAddr = some s.target)

/-- `100 * NOUN + VERB`, exact and not subject to `WORD_BITS` (43_search.md rules R188 and R196). -/
def composite (n v : Nat) : Nat := compositeFactor * n + v

/-- The search ends at its first match (43_search.md rule R188). -/
def finishFound (n v : Nat) (s : State) : State :=
  respond { s with answer := composite n v, sstate := .found, phase := .done } (.found n v (composite n v))

/-- The search has tried every candidate (43_search.md rules R189 and R190). -/
def finishNotFound (s : State) : State :=
  respond { s with sstate := .notFound, phase := .done } .notFound

/-- A candidate that ended `Faulted` is counted (43_search.md rule R191). -/
def countFault (s : State) : State :=
  { s with sfcnt := if s.runState = .faulted then s.sfcnt + 1 else s.sfcnt }

/-- The range is empty (43_search.md rule R190). -/
def rangeEmpty (s : State) : Bool := decide (s.nounHi < s.nounLo) || decide (s.verbHi < s.verbLo)

/-- The registers a SEARCH writes when it is accepted (43_search.md rules R182 and R197). -/
def beginSearch (target : Nat) (s : State) : State :=
  { s with target := target, sstate := .searching, answer := 0, sfcnt := 0, response := none }

/-! ## The transitions of rule R197 -/

/-- The rows of `Load(n, v)`. -/
def loadPhase (n v : Nat) (s : State) : State := toPhase (setUpCandidate n v s) (.exec n v)

/-- The rows of `Check(n, v)`. The bounds are the registers', which no command can change inside a search (log entry 8). -/
def checkPhase (n v : Nat) (s : State) : State :=
  if candidateMatches s then finishFound n v s
  else if v < s.verbHi then toPhase (countFault s) (.load n (v + 1))
  else if n < s.nounHi then toPhase (countFault s) (.load (n + 1) s.verbLo)
  else finishNotFound (countFault s)

/-- The rows of `Idle` for an accepted SEARCH; a SEARCH after a finished one is accepted in `Done` alike (log entry 6). -/
def startSearch (target : Nat) (s : State) : State :=
  if rangeEmpty s then finishNotFound (beginSearch target s)
  else toPhase (beginSearch target s) (.load s.nounLo s.verbLo)

/-! ## The algorithm of rule R182 as a whole -/

/-- `lo, lo + 1, ..., hi`, both ends included; empty if `lo > hi` (00_scope.md rule R9). -/
def ascending (lo hi : Nat) : List Nat := List.range' lo (hi + 1 - lo)

/-- The candidates in the order of 43_search.md rule R183: the noun outer, the verb fastest-varying. -/
def candidates (s : State) : List (Nat × Nat) :=
  (ascending s.nounLo s.nounHi).flatMap fun n => (ascending s.verbLo s.verbHi).map fun v => (n, v)

/-- One candidate: restore, patch, run (43_search.md rules R184 to R186). -/
def tryCandidate (n v : Nat) (s : State) : State := runToEnd (setUpCandidate n v s)

/-- The two loops of 43_search.md rule R182 over the candidates still to try. -/
def searchOver : List (Nat × Nat) → State → State
  | [], s => finishNotFound s
  | (n, v) :: rest, s =>
    if candidateMatches (tryCandidate n v s) then finishFound n v (tryCandidate n v s)
    else searchOver rest (countFault (tryCandidate n v s))

/-- SEARCH(target) whose precondition holds, whole (43_search.md rule R182). -/
def searchWhole (target : Nat) (s : State) : State := searchOver (candidates s) (beginSearch target s)

end Sys2Proof.Machine
end

