-- ==== Sys2Proof/Machine/HostCommands.lean ====
section
/-! DEFINITION. The host commands (42_host_commands.md, 43_search.md rule R180): for each, its acceptance by a core with no
command in progress. RUN and SEARCH are begun by it and completed by later steps; every other command completes in it. -/

namespace Sys2Proof.Machine

/-- A command whose precondition does not hold: no register and no cell changes (42_host_commands.md rule R169). -/
def refuse (s : State) : State := respond s .refused

/-- LOAD(image) whose precondition holds (42_host_commands.md rule R160). The phase of the search controller becomes `Idle`,
as at reset (DEDUCED, log entry 6). -/
def loadImage (image : List Nat) (s : State) : State :=
  { clear { s with mem := image, base := image } with
    sstate := .idle, target := 0, noun := 0, verb := 0, answer := 0, sfcnt := 0, phase := .idle }

/-- LOAD (42_host_commands.md rule R160). -/
def acceptLoad (image : List Nat) (s : State) : State :=
  if s.cfg.fitsImage image then respond (loadImage image s) .done else refuse s

/-- PATCH (42_host_commands.md rules R162 and R163). -/
def acceptPatch (position : Nat) (v : Nat) (s : State) : State :=
  if patchAllowed s v then
    respond (patchCell s position v) (if inBounds s position then .done else .faulted)
  else refuse s

/-- RUN (42_host_commands.md rule R164): the *start* control of 41_halt_and_sequencing.md rule R151 (log entry 5). -/
def acceptRun (s : State) : State :=
  match s.runState with
  | .running => { s with runActive := true, response := none }
  | .halted => refuse s
  | .faulted => refuse s

/-- The answer of RESULT (42_host_commands.md rule R165). `Halted` implies that cell 0 exists (10_state.md rule R38); in a
state no run reaches where it does not, the answer is `Invalid` (DESIGN CHOICE, log entry 13). -/
def resultOf (s : State) : Response :=
  match s.runState with
  | .halted =>
    match memRead s resultAddr with
    | some v => .valid v
    | none => .invalid
  | .running => .invalid
  | .faulted => .invalid

/-- RESULT (42_host_commands.md rule R165). -/
def acceptResult (s : State) : State := respond s (resultOf s)

/-- PEEK (42_host_commands.md rule R166). -/
def acceptPeek (address : Nat) (s : State) : State :=
  match memRead s address with
  | some v => respond s (.value v)
  | none => refuse s

/-- The number GET reads from a register (42_host_commands.md rule R167, 10_state.md rule R35). -/
def readRegister (s : State) : Register → Nat
  | .memLen => s.memLen
  | .ip => s.ip
  | .state => s.runState.code
  | .fcause => s.fcause.code
  | .finfo => s.finfo
  | .fslot => s.fslot.code
  | .baseLen => s.baseLen
  | .target => s.target
  | .noun => s.noun
  | .verb => s.verb
  | .nounLo => s.nounLo
  | .nounHi => s.nounHi
  | .verbLo => s.verbLo
  | .verbHi => s.verbHi
  | .sstate => s.sstate.code
  | .answer => s.answer
  | .sfcnt => s.sfcnt

/-- GET (42_host_commands.md rule R167). -/
def acceptGet (register : Register) (s : State) : State := respond s (.value (readRegister s register))

/-- SETRANGE (42_host_commands.md rule R168). -/
def acceptSetRange (nlo nhi vlo vhi : Nat) (s : State) : State :=
  if s.cfg.fits nlo && s.cfg.fits nhi && s.cfg.fits vlo && s.cfg.fits vhi then
    respond { s with nounLo := nlo, nounHi := nhi, verbLo := vlo, verbHi := vhi } .done
  else refuse s

/-- RESET (42_host_commands.md rule R170, 70_reset_and_hazards.md rule R250). The spec gives it no response; the host's
commands still waiting and the build's parameters are not the core's registers and stay (DESIGN CHOICE, log entry 7). -/
def acceptReset (s : State) : State := withPending (State.initial s.cfg) s.pending

/-- SEARCH (43_search.md rule R180): the controller leaves `Idle` or `Done`. -/
def acceptSearch (target : Nat) (s : State) : State :=
  if s.cfg.fits target then startSearch target s else refuse s

/-- The acceptance of a command by a core with none in progress (00_scope.md rule R11). -/
def accept (c : Command) (s : State) : State :=
  match c with
  | .load image => acceptLoad image s
  | .patch position v => acceptPatch position v s
  | .run => acceptRun s
  | .result => acceptResult s
  | .peek address => acceptPeek address s
  | .get register => acceptGet register s
  | .setRange nlo nhi vlo vhi => acceptSetRange nlo nhi vlo vhi s
  | .reset => acceptReset s
  | .search target => acceptSearch target s

end Sys2Proof.Machine
end

