-- ==== Sys2Proof/Machine/Controller.lean ====
section
/-! DEFINITION. One transition of the whole core: an instruction step of a RUN, a transition of the search controller
(43_search.md rule R197), or the acceptance of the host's next command (00_scope.md rule R11). -/

namespace Sys2Proof.Machine

/-- No command is in progress: the host can observe the core and issue a command (00_scope.md rule R11, 43_search.md
rule R197: the phase is then `Idle` or `Done`). -/
def quiescent (s : State) : Bool :=
  !s.runActive && match s.phase with
    | .idle => true
    | .done => true
    | .load _ _ => false
    | .exec _ _ => false
    | .check _ _ => false

/-- The sequencer has been started, by RUN or by the search controller (41_halt_and_sequencing.md rules R141 and R151). -/
def sequencerStarted (s : State) : Bool :=
  s.runActive || match s.phase with
    | .exec _ _ => true
    | .idle => false
    | .done => false
    | .load _ _ => false
    | .check _ _ => false

/-- The core accepts the host's next command, or holds its state if there is none (00_scope.md rule R11, 60_exceptions.md
rule R235; log entries 4 and 14). -/
def hostPhase (s : State) : State :=
  match s.pending with
  | [] => s
  | c :: rest => accept c (withPending s rest)

/-- One transition of the core. -/
def coreStep (s : State) : Outcome :=
  match s.runActive with
  | true => if s.runState = .running then sequencerStep s else .next (finishRun s)
  | false =>
    match s.phase with
    | .idle => .next (hostPhase s)
    | .load n v => .next (loadPhase n v s)
    | .exec n v =>
      if s.runState = .running then sequencerStep s else .next (toPhase s (.check n v))
    | .check n v => .next (checkPhase n v s)
    | .done => .next (hostPhase s)

end Sys2Proof.Machine
end

