-- ==== Sys2Proof/Machine/Step.lean ====
section
/-! DEFINITION. The step of the machine, and the placing of one instruction where the step fetches. -/

namespace Sys2Proof.Machine

/-- One step of the machine: next, always (the three outcomes are `Host.Outcome`'s). -/
def step (s : State) : Host.Outcome State Fault Refusal := coreStep s

/-- `s` with the instruction of a table word stored at `IP`, so that the next step fetches and runs exactly it. It stands for
the host's LOAD and the acceptance of its RUN (log entry 12; the cells of the word are those of log entry 11). -/
def State.withFetchWord (s : State) (nbits w : Nat) : State := readyToRun (tableCells nbits w) s

end Sys2Proof.Machine
end

