-- ==== Sys2Proof/Safety.lean ====
section
/-! DEFINITION. The words the statements use: the OPEN parameters' limits, frames, the step algorithm and the refusals written
a second time from the spec's own text, and the invariants of the machine (10_state.md rule R38, with the register domains of
rule R35). -/

namespace Sys2Proof.Machine

/-! ## Limits of a build -/

/-- A value not below `2^WORD_BITS` for a finite `WORD_BITS` (42_host_commands.md rule R169). -/
def tooLarge (c : Config) (v : Nat) : Prop := ∃ w, c.wordBits = some w ∧ 2 ^ w ≤ v

/-- A length above a finite `MEM_MAX` (42_host_commands.md rule R169). -/
def tooLong (c : Config) (n : Nat) : Prop := ∃ m, c.memMax = some m ∧ m < n

/-! ## Frames -/

/-- The fault record is the same (10_state.md rule R27). -/
def recordUnchanged (s t : State) : Prop := t.fcause = s.fcause ∧ t.finfo = s.finfo ∧ t.fslot = s.fslot

/-- The Machine part of rule R20 and the build's parameters are the same. -/
def sameMachine (s t : State) : Prop :=
  t.cfg = s.cfg ∧ t.mem = s.mem ∧ t.ip = s.ip ∧ t.runState = s.runState ∧ recordUnchanged s t

/-- The search bounds are the same (10_state.md rule R31). -/
def boundsUnchanged (s t : State) : Prop :=
  t.nounLo = s.nounLo ∧ t.nounHi = s.nounHi ∧ t.verbLo = s.verbLo ∧ t.verbHi = s.verbHi

/-- The search registers other than the bounds, the baseline and the phase are the same (10_state.md rules R29 to R34). -/
def searchUnchanged (s t : State) : Prop :=
  t.target = s.target ∧ t.noun = s.noun ∧ t.verb = s.verb ∧ t.sstate = s.sstate ∧ t.answer = s.answer ∧ t.sfcnt = s.sfcnt

/-- Everything but the Machine part of rule R20 is the same: `BASE`, every register of the search controller, its phase, and
the model's own fields. -/
def searcherUnchanged (s t : State) : Prop :=
  t.base = s.base ∧ boundsUnchanged s t ∧ searchUnchanged s t ∧ t.phase = s.phase ∧ t.cfg = s.cfg ∧
    t.runActive = s.runActive ∧ t.pending = s.pending ∧ t.response = s.response

/-! ## The step algorithm and the refusals, from the spec's own text -/

/-- The record of `raise <Fault>(info, slot)`, written out (60_exceptions.md rule R216). -/
def faultedWith (s : State) (cause : FaultCause) (info : Nat) (slot : FaultSlot) : State :=
  { s with runState := .faulted, fcause := cause, finfo := info, fslot := slot }

/-- The step algorithm, line by line as 41_halt_and_sequencing.md rule R143 writes it, with no decoder, operand form or ALU
behind it; a cell's value stands for a read its line has already found in bounds. -/
def stepAlgorithm (s : State) : State :=
  if s.ip ≥ s.mem.length then faultedWith s .decodeShortWindow 0 .none
  else
    let op := s.mem.getD s.ip 0
    if op = 99 then { s with runState := .halted }
    else if op ≠ 1 ∧ op ≠ 2 then faultedWith s .decodeBadOpcode op .none
    else if s.ip + 3 ≥ s.mem.length then faultedWith s .decodeShortWindow (s.mem.length - s.ip) .none
    else
      let aPos := s.mem.getD (s.ip + 1) 0
      let bPos := s.mem.getD (s.ip + 2) 0
      let destPos := s.mem.getD (s.ip + 3) 0
      if aPos ≥ s.mem.length then faultedWith s .addrOOB aPos .aPos
      else if bPos ≥ s.mem.length then faultedWith s .addrOOB bPos .bPos
      else if destPos ≥ s.mem.length then faultedWith s .addrOOB destPos .destPos
      else
        let x := s.mem.getD aPos 0
        let y := s.mem.getD bPos 0
        let r := if op = 1 then x + y else x * y
        if (match s.cfg.wordBits with
            | some w => decide (r ≥ 2 ^ w)
            | none => false) then faultedWith s .arithOverflow 0 .none
        else { s with mem := s.mem.set destPos r, ip := s.ip + 4 }

/-- The complete list of refusals of 42_host_commands.md rule R169. -/
def refusedBy (s : State) : Command → Prop
  | .load image => tooLong s.cfg image.length ∨ ∃ v ∈ image, tooLarge s.cfg v
  | .patch _ v => s.runState ≠ .running ∨ tooLarge s.cfg v
  | .run => s.runState ≠ .running
  | .peek address => s.mem.length ≤ address
  | .setRange nlo nhi vlo vhi => tooLarge s.cfg nlo ∨ tooLarge s.cfg nhi ∨ tooLarge s.cfg vlo ∨ tooLarge s.cfg vhi
  | .search target => tooLarge s.cfg target
  | .result => False
  | .get _ => False
  | .reset => False

/-- The host's next command, with the core free to accept it: `c`, then `rest` (00_scope.md rule R11). -/
def nextCommand (s : State) (c : Command) (rest : List Command) : Prop :=
  quiescent s = true ∧ s.pending = c :: rest

/-! ## The invariants -/

/-- The search controller's phase agrees with `SSTATE`, "the only trace of it" (43_search.md rule R197; log entry 6). -/
def phaseMatchesSearchState (s : State) : Bool :=
  match s.phase with
  | .idle => decide (s.sstate = .idle)
  | .load _ _ => decide (s.sstate = .searching)
  | .exec _ _ => decide (s.sstate = .searching)
  | .check _ _ => decide (s.sstate = .searching)
  | .done => decide (s.sstate = .found ∨ s.sstate = .notFound)

/-- The pair `(n, v)` lies within the search bounds (43_search.md rule R183). -/
def inRange (s : State) (n v : Nat) : Prop :=
  s.nounLo ≤ n ∧ n ≤ s.nounHi ∧ s.verbLo ≤ v ∧ v ≤ s.verbHi

/-- The number of a candidate of the range in the order of trial, from 0 (43_search.md rule R183). -/
def candidateNumber (s : State) (n v : Nat) : Nat :=
  (n - s.nounLo) * (s.verbHi + 1 - s.verbLo) + (v - s.verbLo)

/-- `(n, v)` is a candidate of the range, and `SFCNT` counts at most the candidates before it, fewer than the pairs of the range
(43_search.md rules R183 and R191, 10_state.md rule R35). -/
def candidateDue (s : State) (n v : Nat) : Prop := inRange s n v ∧ s.sfcnt ≤ candidateNumber s n v

/-- A candidate `(n, v)` is set up: the registers name it, the memory has the baseline's length, and both patches were in bounds
or one faulted (43_search.md rules R183 to R187). -/
def candidateSetUp (s : State) (n v : Nat) : Prop :=
  candidateDue s n v ∧ s.noun = n ∧ s.verb = v ∧ s.memLen = s.baseLen ∧ (s.runState ≠ .faulted → 3 ≤ s.memLen)

/-- What each phase of the search controller guarantees (43_search.md rule R197). -/
def phaseInv (s : State) : Prop :=
  match s.phase with
  | .idle => True
  | .load n v => candidateDue s n v
  | .exec n v => candidateSetUp s n v
  | .check n v => candidateSetUp s n v ∧ s.runState ≠ .running
  | .done => True

/-- The state invariant: the items of 10_state.md rule R38 that speak of one state, the domains of rule R35 and the zero
values of 93_implementation_defined.md U19. The domains that are all of a field's type (`FINFO`, `ANSWER`, `FSLOT`, `STATE`,
`SSTATE`) need no clause. `SFCNT` is bounded while a search is in progress; afterwards SETRANGE may have changed the range. -/
structure State.Inv (s : State) : Prop where
  /-- R38 item 1. -/
  ipAligned : s.ip % stride = 0
  /-- R38 item 2. -/
  ipWithinMemory : s.ip ≤ s.memLen
  /-- R38 item 3. -/
  haltedAtHlt : s.runState = .halted → memRead s s.ip = some opHlt
  /-- R38 item 4, its last sentence. -/
  patchFaultAtEntry : s.fcause = .patchOOB → s.ip = entry
  /-- R38 item 5. -/
  causeIffFaulted : s.fcause = .none ↔ s.runState ≠ .faulted
  /-- R211, the row of `None`. -/
  recordClear : s.fcause = .none → s.finfo = 0 ∧ s.fslot = .none
  /-- R211, the column `FSLOT`. -/
  slotIffAddrOOB : s.fslot ≠ .none ↔ s.fcause = .addrOOB
  /-- R218. -/
  causeNotReserved : s.fcause ≠ .stepLimit
  /-- R38 item 6. -/
  observedRunningAtEntry : quiescent s = true → s.runState = .running → s.ip = entry
  /-- R38 item 8. -/
  foundMeansMatch : s.sstate = .found →
    s.answer = composite s.noun s.verb ∧ s.runState = .halted ∧ 3 ≤ s.memLen ∧ memRead s resultAddr = some s.target
  /-- R33. -/
  answerZero : s.sstate ≠ .found → s.answer = 0
  /-- R30, R29, R33, R34 and U19: nothing of a search before the first one. -/
  idleClear : s.sstate = .idle → s.target = 0 ∧ s.noun = 0 ∧ s.verb = 0 ∧ s.answer = 0 ∧ s.sfcnt = 0
  /-- R7 and R35: the cells of `MEM` and its length. -/
  memWf : Memory.wf s.cfg s.mem = true
  /-- R7 and R35: the cells of `BASE` and its length. -/
  baseWf : Memory.wf s.cfg s.base = true
  /-- R180. -/
  targetFits : s.cfg.fits s.target = true
  /-- R168, for a build that can hold the reset bound 99. -/
  boundsFit : s.cfg.fits opHlt = true →
    s.cfg.fits s.nounLo = true ∧ s.cfg.fits s.nounHi = true ∧ s.cfg.fits s.verbLo = true ∧ s.cfg.fits s.verbHi = true
  /-- R35, `NOUN` and `VERB`, for a build that can hold the reset bound 99. -/
  pairFits : s.cfg.fits opHlt = true → s.cfg.fits s.noun = true ∧ s.cfg.fits s.verb = true
  /-- R197: `SSTATE` and the phase. -/
  phaseTraced : phaseMatchesSearchState s = true
  /-- R197: the phase is `Idle` or `Done` while a RUN is in progress. -/
  runOutsideSearch : s.runActive = true → s.phase = .idle ∨ s.phase = .done
  /-- R197: what each phase guarantees, with R35's bound on `SFCNT`. -/
  phaseHolds : phaseInv s

end Sys2Proof.Machine
end

