-- ==== Sys2Proof/Certificates/Slice0/Obligations.lean ====
section
/-! DEFINITION. The statements for the provers. `Sys2Proof.core.run k s` is `k` steps of the machine (Host/Core.lean).
A state `s` is any state whatever, and with it any value of the OPEN parameters `WORD_BITS` and `MEM_MAX` (`s.cfg`, log
entry 3), unless a hypothesis says otherwise. -/

open Sys2Proof Sys2Proof.Machine

/-! ## Encoding and decode -/

/-- 30_encoding.md rule R99, the complete opcode map: the three opcodes with their windows, and every other value illegal. -/
def Obligations.OpcodeMapIsComplete : Prop :=
  (∀ a b d rest, decodeWindow (1 :: a :: b :: d :: rest) = .instr (.add a b d)) ∧
  (∀ a b d rest, decodeWindow (2 :: a :: b :: d :: rest) = .instr (.mul a b d)) ∧
  (∀ rest, decodeWindow (99 :: rest) = .instr .hlt) ∧
  (∀ op rest, (op = 1 ∨ op = 2) → rest.length < 3 → decodeWindow (op :: rest) = .shortWindow (rest.length + 1)) ∧
  (∀ op rest, op ≠ 1 → op ≠ 2 → op ≠ 99 → decodeWindow (op :: rest) = .badOpcode op)

/-- 30_encoding.md rule R96, the dispatch algorithm over `MEM`, `MEM_LEN` and `IP`. -/
def Obligations.DecodeFollowsDispatchAlgorithm : Prop :=
  ∀ (mem : List Nat) (ip : Nat),
    (mem.length ≤ ip → decode mem ip = .shortWindow 0) ∧
    ∀ op, mem[ip]? = some op →
      (op = 99 → decode mem ip = .instr .hlt) ∧
      ((op = 1 ∨ op = 2) → mem.length - ip < 4 → decode mem ip = .shortWindow (mem.length - ip)) ∧
      (∀ a b d, mem[ip + 1]? = some a → mem[ip + 2]? = some b → mem[ip + 3]? = some d →
        (op = 1 → decode mem ip = .instr (.add a b d)) ∧ (op = 2 → decode mem ip = .instr (.mul a b d))) ∧
      (op ≠ 1 → op ≠ 2 → op ≠ 99 → decode mem ip = .badOpcode op)

/-- Decode and encode agree at every address of every memory: the cells of an instruction stand there if and only if decode
reads that instruction there. -/
def Obligations.DecodeAgreesWithEncode : Prop :=
  ∀ (mem : List Nat) (ip : Nat) (i : Instr), decode mem ip = .instr i ↔ encode i <+: mem.drop ip

/-- No bit of a table word is dropped. It rests on the model's own numbering of a table word, four cells of 64 bits (log
entry 11), and says nothing of the spec's encoding. -/
def Obligations.TableWordRoundTrip : Prop :=
  ∀ i : Instr, (∀ v ∈ encode i, v < 2 ^ tableCellBits) →
    decodeTableWord (4 * tableCellBits) (encodeTableWord i) = some i

/-- The cells of the spec's own examples decode to the instructions it names, and their neighbours are illegal. -/
def Obligations.WrittenWindowsDecode : Prop :=
  decodeWindow [1, 9, 10, 3, 2, 3, 11, 0, 99, 30, 40, 50] = .instr (.add 9 10 3) ∧
  decodeWindow [2, 4, 4, 5, 99, 0] = .instr (.mul 4 4 5) ∧
  decodeWindow [99] = .instr .hlt ∧
  decodeWindow [1001, 0, 0, 0, 99] = .badOpcode 1001 ∧
  decodeWindow [1, 0, 0] = .shortWindow 3

/-! ## The step -/

/-- While the sequencer is started and `STATE = Running`, a step is `exec` of the instruction decoded at `IP`, and adds
nothing to it. -/
def Obligations.StepRunsDecodedInstruction : Prop :=
  ∀ (s : State) (i : Instr), sequencerStarted s = true → s.runState = .running → decode s.mem s.ip = .instr i →
    step s = exec i s

/-- 41_halt_and_sequencing.md rule R143, the whole step algorithm with the order of its checks, and with it the priority of
60_exceptions.md rule R221 (the spec's own decision D4). -/
def Obligations.StepFollowsStepAlgorithm : Prop :=
  ∀ s : State, sequencerStarted s = true → s.runState = .running → step s = .next (stepAlgorithm s)

/-- Every step of the machine answers a next state: no state is stuck, none is refused. -/
def Obligations.StepAlwaysAnswersNext : Prop := ∀ s : State, ∃ t, step s = .next t

/-- The model's choice of log entry 10: outside `Running`, where no step is taken, every meaning stops by name. -/
def Obligations.ExecStopsOutsideRunning : Prop :=
  ∀ (i : Instr) (s : State), s.runState ≠ .running → exec i s = .fault .notRunning

/-- The model's choice of log entries 11 and 12: a table word placed by `withFetchWord` is what the next step runs. -/
def Obligations.PlacedWordIsRun : Prop :=
  ∀ (s : State) (nbits w : Nat) (i : Instr), decodeTableWord nbits w = some i →
    step (s.withFetchWord nbits w) = exec i (s.withFetchWord nbits w)

/-! ## ADD, MUL, HLT -/

/-- 40_alu.md rule R121: ADD's faults in their order and its effect; and a step at the opcode 1 is this ADD of the three
cells that follow, or the fault of a window that is too short. -/
def Obligations.AddEffectAndFaults : Prop :=
  (∀ (s : State) (a b d : Nat), s.runState = .running →
    (s.memLen ≤ a → exec (.add a b d) s = .next (faultedWith s .addrOOB a .aPos)) ∧
    (a < s.memLen → s.memLen ≤ b → exec (.add a b d) s = .next (faultedWith s .addrOOB b .bPos)) ∧
    (a < s.memLen → b < s.memLen → s.memLen ≤ d → exec (.add a b d) s = .next (faultedWith s .addrOOB d .destPos)) ∧
    (∀ x y, memRead s a = some x → memRead s b = some y → d < s.memLen →
      (tooLarge s.cfg (x + y) → exec (.add a b d) s = .next (faultedWith s .arithOverflow 0 .none)) ∧
      (¬ tooLarge s.cfg (x + y) →
        exec (.add a b d) s = .next { s with mem := s.mem.set d (x + y), ip := s.ip + 4 }))) ∧
  (∀ s : State, sequencerStarted s = true → s.runState = .running → memRead s s.ip = some 1 →
    (s.memLen ≤ s.ip + 3 → step s = .next (faultedWith s .decodeShortWindow (s.memLen - s.ip) .none)) ∧
    (∀ a b d, memRead s (s.ip + 1) = some a → memRead s (s.ip + 2) = some b → memRead s (s.ip + 3) = some d →
      step s = exec (.add a b d) s))

/-- 40_alu.md rule R122: MUL's faults in their order and its effect; and a step at the opcode 2 is this MUL of the three
cells that follow, or the fault of a window that is too short. -/
def Obligations.MulEffectAndFaults : Prop :=
  (∀ (s : State) (a b d : Nat), s.runState = .running →
    (s.memLen ≤ a → exec (.mul a b d) s = .next (faultedWith s .addrOOB a .aPos)) ∧
    (a < s.memLen → s.memLen ≤ b → exec (.mul a b d) s = .next (faultedWith s .addrOOB b .bPos)) ∧
    (a < s.memLen → b < s.memLen → s.memLen ≤ d → exec (.mul a b d) s = .next (faultedWith s .addrOOB d .destPos)) ∧
    (∀ x y, memRead s a = some x → memRead s b = some y → d < s.memLen →
      (tooLarge s.cfg (x * y) → exec (.mul a b d) s = .next (faultedWith s .arithOverflow 0 .none)) ∧
      (¬ tooLarge s.cfg (x * y) →
        exec (.mul a b d) s = .next { s with mem := s.mem.set d (x * y), ip := s.ip + 4 }))) ∧
  (∀ s : State, sequencerStarted s = true → s.runState = .running → memRead s s.ip = some 2 →
    (s.memLen ≤ s.ip + 3 → step s = .next (faultedWith s .decodeShortWindow (s.memLen - s.ip) .none)) ∧
    (∀ a b d, memRead s (s.ip + 1) = some a → memRead s (s.ip + 2) = some b → memRead s (s.ip + 3) = some d →
      step s = exec (.mul a b d) s))

/-- 41_halt_and_sequencing.md rule R140: HLT sets `STATE` to `Halted` and changes nothing else, whatever cells follow it
(that `IP` stays is the spec's own decision D5). -/
def Obligations.HltEffect : Prop :=
  (∀ s : State, s.runState = .running → exec .hlt s = .next { s with runState := .halted }) ∧
  (∀ s : State, sequencerStarted s = true → s.runState = .running → memRead s s.ip = some 99 →
    step s = .next { s with runState := .halted })

/-- The frame of every instruction: no cell but an ADD's or a MUL's destination, no length, no register of the search
controller, and the fault record only by a fault. -/
def Obligations.InstructionFrame : Prop :=
  ∀ (i : Instr) (s t : State), exec i s = .next t →
    searcherUnchanged s t ∧ t.memLen = s.memLen ∧ (t.runState ≠ .faulted → recordUnchanged s t) ∧
    (i = .hlt → t.mem = s.mem ∧ t.ip = s.ip ∧ recordUnchanged s t) ∧
    (∀ a b d, i = .add a b d ∨ i = .mul a b d →
      ∀ x, x ≠ effectiveAddress d → memRead t x = memRead s x)

/-- Both operations are commutative, so exchanging two operand addresses that are in bounds changes nothing. -/
def Obligations.OperandOrderIsIrrelevant : Prop :=
  ∀ (s : State) (a b d : Nat), a < s.memLen → b < s.memLen →
    exec (.add a b d) s = exec (.add b a d) s ∧ exec (.mul a b d) s = exec (.mul b a d) s

/-- A store into the next instruction's opcode cell is what the next decode sees, with no delay. -/
def Obligations.StoreIsSeenByNextFetch : Prop :=
  ∀ (s t : State) (a b x y : Nat) (i : Instr) (r : Nat), memRead s a = some x → memRead s b = some y →
    (i = .add a b (s.ip + 4) ∧ r = x + y ∨ i = .mul a b (s.ip + 4) ∧ r = x * y) →
    exec i s = .next t → t.runState = .running →
      memRead t t.ip = some r ∧ (r = 99 → decode t.mem t.ip = .instr .hlt) ∧
      (r ≠ 1 → r ≠ 2 → r ≠ 99 → decode t.mem t.ip = .badOpcode r)

/-- A program observes nothing of the search controller: what an instruction does to the Machine depends on the Machine only. -/
def Obligations.ProgramCannotObserveSearcher : Prop :=
  ∀ (i : Instr) (s s' t : State), sameMachine s s' → exec i s = .next t →
    ∃ t', exec i s' = .next t' ∧ sameMachine t t'

/-! ## IP, faults and the run -/

/-- 41_halt_and_sequencing.md rules R144 and R146: `IP` advances by 4 after ADD and MUL and only then; HLT and every fault
leave it (decision D5). -/
def Obligations.IpAdvancesOnlyAfterAddAndMul : Prop :=
  ∀ s t : State, sequencerStarted s = true → s.runState = .running → step s = .next t →
    (t.runState = .running →
      t.ip = s.ip + 4 ∧ ∃ a b d, decode s.mem s.ip = .instr (.add a b d) ∨ decode s.mem s.ip = .instr (.mul a b d)) ∧
    (t.runState = .halted → t.ip = s.ip ∧ memRead t t.ip = some 99) ∧
    (t.runState = .faulted → t.ip = s.ip)

/-- Over the whole machine, `IP` is never written but by `+ 4` and by `<- 0`: there are no jumps. -/
def Obligations.IpHasNoJumps : Prop :=
  ∀ s t : State, step s = .next t → t.ip = s.ip ∨ t.ip = s.ip + 4 ∨ t.ip = 0

/-- A faulting step writes the fault record and nothing else: faults are precise. -/
def Obligations.FaultIsPrecise : Prop :=
  ∀ s t : State, sequencerStarted s = true → s.runState = .running → step s = .next t → t.runState = .faulted →
    t = faultedWith s t.fcause t.finfo t.fslot

/-- The recorded values of the causes a step can raise, against the cells of the window. -/
def Obligations.FaultRecordNamesTheCause : Prop :=
  ∀ s t : State, sequencerStarted s = true → s.runState = .running → step s = .next t → t.runState = .faulted →
    (t.fcause = .decodeBadOpcode ∧ t.fslot = .none ∧ memRead s s.ip = some t.finfo ∧
      t.finfo ≠ 1 ∧ t.finfo ≠ 2 ∧ t.finfo ≠ 99) ∨
    (t.fcause = .decodeShortWindow ∧ t.fslot = .none ∧ t.finfo = s.memLen - s.ip ∧ t.finfo ≤ 3) ∨
    (t.fcause = .addrOOB ∧ t.fslot ≠ .none ∧ s.memLen ≤ t.finfo ∧
      memRead s (s.ip + t.fslot.code) = some t.finfo) ∨
    (t.fcause = .arithOverflow ∧ t.finfo = 0 ∧ t.fslot = .none ∧ s.cfg.wordBits ≠ none)

/-- 60_exceptions.md rule R215 (decision D2): whoever raises ArithOverflow is an ADD or a MUL whose exact result does not fit a
finite `WORD_BITS`. -/
def Obligations.OverflowOnlyForFiniteWordBits : Prop :=
  ∀ s t : State, step s = .next t → t.fcause = .arithOverflow → s.fcause ≠ .arithOverflow →
    ∃ w a b d x y, s.cfg.wordBits = some w ∧ memRead s a = some x ∧ memRead s b = some y ∧
      (decode s.mem s.ip = .instr (.add a b d) ∧ 2 ^ w ≤ x + y ∨
        decode s.mem s.ip = .instr (.mul a b d) ∧ 2 ^ w ≤ x * y)

/-- 60_exceptions.md rule R218 (decision D13): no step of the machine writes the reserved cause 6. -/
def Obligations.StepLimitIsNeverRaised : Prop :=
  ∀ s t : State, step s = .next t → s.fcause ≠ .stepLimit → t.fcause ≠ .stepLimit

/-- 60_exceptions.md rule R223: a terminal state is left only by LOAD, RESET or the restore of a candidate, each of which makes
a fresh Machine; PATCH and RUN are refused in `Faulted`. -/
def Obligations.TerminalStatesAreLeftOnlyByFreshMachine : Prop :=
  (∀ s t : State, s.runState ≠ .running → step s = .next t → t.runState = .running →
    t.ip = 0 ∧ t.fcause = .none ∧ t.finfo = 0 ∧ t.fslot = .none ∧
    ((s.runActive = false ∧ ∃ n v, s.phase = .load n v) ∨
      ∃ rest, (∃ image, nextCommand s (.load image) rest) ∨ nextCommand s .reset rest)) ∧
  (∀ (s : State) (rest : List Command) (p v : Nat), s.runState = .faulted →
    (nextCommand s (.patch p v) rest ∨ nextCommand s .run rest) →
      step s = .next { s with pending := rest, response := some .refused }) ∧
  (∀ s t : State, s.runState = .faulted → step s = .next t → t.runState = .faulted → t.phase = s.phase →
    recordUnchanged s t)

/-- Every started run is over after at most `floor(MEM_LEN / 4) + 1` steps, from any state. -/
def Obligations.RunEndsWithinBound : Prop :=
  ∀ s : State, sequencerStarted s = true →
    ∃ k t, k ≤ s.memLen / 4 + 1 ∧ Sys2Proof.core.run k s = .next t ∧ (t.runState = .halted ∨ t.runState = .faulted)

/-! ## The memory controller -/

/-- 20_memory.md rules R64 and R65: a read of a written cell gives the value written, every other cell and every register
stay, and nothing out of bounds is read or written. -/
def Obligations.MemReadAndMemWriteAreBoundsChecked : Prop :=
  ∀ (s : State) (a v : Nat),
    (a < s.memLen → memRead s a = s.mem[a]? ∧ memRead s a ≠ none ∧
      ∃ t, memWrite s a v = some t ∧ memRead t a = some v ∧ t.memLen = s.memLen ∧
        (∀ b, b ≠ a → memRead t b = memRead s b) ∧ t = { s with mem := t.mem }) ∧
    (s.memLen ≤ a → memRead s a = none ∧ memWrite s a v = none)

/-- The working memory changes its length by LOAD, RESET and a candidate's restore only. -/
def Obligations.MemoryLengthIsFixedBetweenLoads : Prop :=
  ∀ s t : State, step s = .next t → t.memLen ≠ s.memLen →
    (∃ n v, s.phase = .load n v ∧ t.memLen = s.baseLen) ∨
    ∃ rest, (∃ image, nextCommand s (.load image) rest ∧ t.memLen = image.length) ∨
      (nextCommand s .reset rest ∧ t.memLen = 0)

/-- The baseline is written by LOAD and RESET only. -/
def Obligations.BaselineIsWrittenOnlyByLoadAndReset : Prop :=
  ∀ s t : State, step s = .next t → t.base ≠ s.base →
    ∃ rest, (∃ image, nextCommand s (.load image) rest ∧ t.base = image) ∨ (nextCommand s .reset rest ∧ t.base = [])

/-- 10_state.md rule R31 (decision D19): the bounds are set by SETRANGE, put at 0, 99, 0, 99 by reset, and by nothing else. -/
def Obligations.SearchBoundsAreWrittenOnlyBySetRange : Prop :=
  (∀ s t : State, step s = .next t → ¬ boundsUnchanged s t →
    (∃ rest nlo nhi vlo vhi, nextCommand s (.setRange nlo nhi vlo vhi) rest ∧
      t.nounLo = nlo ∧ t.nounHi = nhi ∧ t.verbLo = vlo ∧ t.verbHi = vhi) ∨
    (∃ rest, nextCommand s .reset rest ∧ t.nounLo = 0 ∧ t.nounHi = 99 ∧ t.verbLo = 0 ∧ t.verbHi = 99)) ∧
  (∀ c : Config, (State.initial c).nounLo = 0 ∧ (State.initial c).nounHi = 99 ∧
    (State.initial c).verbLo = 0 ∧ (State.initial c).verbHi = 99)

/-- The OPEN parameters are configuration: no step changes them (the model's choice of log entry 3 keeps them in the state). -/
def Obligations.ParametersNeverChange : Prop := ∀ s t : State, step s = .next t → t.cfg = s.cfg

/-! ## The host commands

A command waits in `pending` and its response stands in `response`: the model's own two fields for what the host sends and is
answered (log entry 4). Which response a command has is the spec's. -/

/-- 42_host_commands.md rule R160: LOAD, accepted and refused (decision D10). -/
def Obligations.LoadCommand : Prop :=
  ∀ (s : State) (image : List Nat) (rest : List Command), nextCommand s (.load image) rest →
    ((tooLong s.cfg image.length ∨ ∃ v ∈ image, tooLarge s.cfg v) →
      step s = .next { s with pending := rest, response := some .refused }) ∧
    (¬ tooLong s.cfg image.length → (∀ v ∈ image, ¬ tooLarge s.cfg v) →
      ∃ t, step s = .next t ∧ t.base = image ∧ t.baseLen = image.length ∧ t.mem = image ∧ t.memLen = image.length ∧
        t.ip = 0 ∧ t.runState = .running ∧ t.fcause = .none ∧ t.finfo = 0 ∧ t.fslot = .none ∧
        t.sstate = .idle ∧ t.target = 0 ∧ t.noun = 0 ∧ t.verb = 0 ∧ t.answer = 0 ∧ t.sfcnt = 0 ∧
        boundsUnchanged s t ∧ t.response = some .done ∧ t.pending = rest)

/-- 42_host_commands.md rules R162 and R163: PATCH, its refusal, and PatchOOB (decision D9), after which a RUN is refused. -/
def Obligations.PatchCommand : Prop :=
  ∀ (s : State) (p v : Nat) (rest : List Command), nextCommand s (.patch p v) rest →
    ((s.runState ≠ .running ∨ tooLarge s.cfg v) →
      step s = .next { s with pending := rest, response := some .refused }) ∧
    (s.runState = .running → ¬ tooLarge s.cfg v → p < s.memLen →
      step s = .next { s with mem := s.mem.set p v, pending := rest, response := some .done }) ∧
    (s.runState = .running → ¬ tooLarge s.cfg v → s.memLen ≤ p →
      ∃ t, step s = .next t ∧ t = { faultedWith s .patchOOB p .none with pending := rest, response := some .faulted } ∧
        ∀ rest', rest = .run :: rest' → step t = .next { t with pending := rest', response := some .refused })

/-- 42_host_commands.md rule R164: RUN is refused outside `Running`; otherwise it takes the steps of the run, changes neither
`BASE` nor a search register, and answers how the run ended. -/
def Obligations.RunCommandReachesItsEnd : Prop :=
  ∀ (s : State) (rest : List Command), nextCommand s .run rest →
    (s.runState ≠ .running → step s = .next { s with pending := rest, response := some .refused }) ∧
    (s.runState = .running → ∃ k t, Sys2Proof.core.run k s = .next t ∧ quiescent t = true ∧ t.pending = rest ∧
      sameMachine (runToEnd s) t ∧ t.base = s.base ∧ boundsUnchanged s t ∧ searchUnchanged s t ∧
      (t.runState = .halted ∧ t.response = some .halted ∨
        t.runState = .faulted ∧ t.response = some (.runFaulted t.fcause t.finfo t.fslot)))

/-- 42_host_commands.md rule R165: RESULT (decision D8), in every state whose `Halted` has a cell 0, and after a search that
ended `Found`. -/
def Obligations.ResultCommand : Prop :=
  ∀ (s : State) (rest : List Command), nextCommand s .result rest →
    (∀ v, s.runState = .halted → memRead s 0 = some v →
      step s = .next { s with pending := rest, response := some (.valid v) }) ∧
    (s.runState ≠ .halted → step s = .next { s with pending := rest, response := some .invalid }) ∧
    (s.Inv → s.sstate = .found → step s = .next { s with pending := rest, response := some (.valid s.target) })

/-- 42_host_commands.md rule R166: PEEK (decision D24). -/
def Obligations.PeekCommand : Prop :=
  ∀ (s : State) (a : Nat) (rest : List Command), nextCommand s (.peek a) rest →
    (∀ v, memRead s a = some v → step s = .next { s with pending := rest, response := some (.value v) }) ∧
    (s.memLen ≤ a → step s = .next { s with pending := rest, response := some .refused })

/-- 42_host_commands.md rule R167 (decision D7): GET answers the number in the named register and changes nothing. -/
def Obligations.GetCommand : Prop :=
  ∀ (s : State) (r : Register) (rest : List Command), nextCommand s (.get r) rest →
    ∃ n, step s = .next { s with pending := rest, response := some (.value n) } ∧
      n = match r with
        | .memLen => s.mem.length
        | .ip => s.ip
        | .state => match s.runState with
          | .running => 0
          | .halted => 1
          | .faulted => 2
        | .fcause => match s.fcause with
          | .none => 0
          | .decodeBadOpcode => 1
          | .decodeShortWindow => 2
          | .addrOOB => 3
          | .arithOverflow => 4
          | .patchOOB => 5
          | .stepLimit => 6
        | .finfo => s.finfo
        | .fslot => match s.fslot with
          | .none => 0
          | .aPos => 1
          | .bPos => 2
          | .destPos => 3
        | .baseLen => s.base.length
        | .target => s.target
        | .noun => s.noun
        | .verb => s.verb
        | .nounLo => s.nounLo
        | .nounHi => s.nounHi
        | .verbLo => s.verbLo
        | .verbHi => s.verbHi
        | .sstate => match s.sstate with
          | .idle => 0
          | .searching => 1
          | .found => 2
          | .notFound => 3
        | .answer => s.answer
        | .sfcnt => s.sfcnt

/-- 42_host_commands.md rule R168: SETRANGE, accepted and refused; an empty range is accepted (decision D19). -/
def Obligations.SetRangeCommand : Prop :=
  ∀ (s : State) (nlo nhi vlo vhi : Nat) (rest : List Command), nextCommand s (.setRange nlo nhi vlo vhi) rest →
    ((tooLarge s.cfg nlo ∨ tooLarge s.cfg nhi ∨ tooLarge s.cfg vlo ∨ tooLarge s.cfg vhi) →
      step s = .next { s with pending := rest, response := some .refused }) ∧
    (¬ tooLarge s.cfg nlo → ¬ tooLarge s.cfg nhi → ¬ tooLarge s.cfg vlo → ¬ tooLarge s.cfg vhi →
      step s = .next { s with nounLo := nlo, nounHi := nhi, verbLo := vlo, verbHi := vhi,
                              pending := rest, response := some .done })

/-- 42_host_commands.md rule R170: RESET puts every register at its value after reset (decision D6), in any state between
commands; and the state after power-on has the same values. -/
def Obligations.ResetCommand : Prop :=
  ∀ t : State, ((∃ s rest, nextCommand s .reset rest ∧ step s = .next t) ∨ ∃ c, t = State.initial c) →
    t.mem = [] ∧ t.memLen = 0 ∧ t.base = [] ∧ t.baseLen = 0 ∧ t.ip = 0 ∧ t.runState = .running ∧
      t.fcause = .none ∧ t.finfo = 0 ∧ t.fslot = .none ∧ t.target = 0 ∧ t.noun = 0 ∧ t.verb = 0 ∧
      t.nounLo = 0 ∧ t.nounHi = 99 ∧ t.verbLo = 0 ∧ t.verbHi = 99 ∧
      t.sstate = .idle ∧ t.answer = 0 ∧ t.sfcnt = 0 ∧ t.phase = .idle

/-- 42_host_commands.md rule R169: the complete list of refusals, that a refused command changes no register and no cell, and that
no command is accepted while one is in progress. -/
def Obligations.RefusalsAreExactlyTheListed : Prop :=
  (∀ (s t : State) (c : Command) (rest : List Command), nextCommand s c rest → step s = .next t →
    (t.response = some .refused ↔ refusedBy s c) ∧
    (refusedBy s c → t = { s with pending := rest, response := some .refused })) ∧
  (∀ s t : State, quiescent s = false → step s = .next t → t.pending = s.pending)

/-- The model's choice of log entries 4 and 14: the core accepts the oldest waiting command and leaves the others waiting; with
none in progress and none waiting it holds its state. -/
def Obligations.OldestWaitingCommandIsAccepted : Prop :=
  (∀ s : State, quiescent s = true → s.pending = [] → step s = .next s) ∧
  (∀ (s t : State) (c : Command) (rest : List Command), nextCommand s c rest → step s = .next t → t.pending = rest)

/-! ## The search controller -/

/-- 43_search.md rule R184: the restore. -/
def Obligations.RestoreMakesFreshMachine : Prop :=
  ∀ s : State, restore s = { s with mem := s.base, ip := 0, runState := .running, fcause := .none, finfo := 0, fslot := .none } ∧
    (restore s).memLen = s.baseLen

/-- 43_search.md rule R185 in the phase `Load(n, v)`: noun before verb, into the working copy only, and PatchOOB for a baseline
with fewer than three cells, whatever the pair (decision D9); the cells written, for values a cell can hold. -/
def Obligations.LoadPhaseSetsUpCandidate : Prop :=
  ∀ (s : State) (n v : Nat), s.runActive = false → s.phase = .load n v →
    ∃ t, step s = .next t ∧ t.phase = .exec n v ∧ t.noun = n ∧ t.verb = v ∧ t.ip = 0 ∧ t.base = s.base ∧
      (3 ≤ s.baseLen → t.runState = .running ∧ t.fcause = .none ∧ t.finfo = 0 ∧ t.fslot = .none ∧
        (¬ tooLarge s.cfg n → ¬ tooLarge s.cfg v → t.mem = (s.base.set 1 n).set 2 v)) ∧
      (s.baseLen = 2 → t.runState = .faulted ∧ t.fcause = .patchOOB ∧ t.finfo = 2 ∧ t.fslot = .none ∧
        (¬ tooLarge s.cfg n → t.mem = s.base.set 1 n)) ∧
      (s.baseLen ≤ 1 → t.mem = s.base ∧ t.runState = .faulted ∧
        t.fcause = .patchOOB ∧ t.finfo = 1 ∧ t.fslot = .none)

/-- The model's reading of log entry 9: of a candidate's pair, a value that no cell of the build can hold is not written and the
other is, and PatchOOB is raised as for any value. -/
def Obligations.UnfitCandidateValueIsNotPatched : Prop :=
  ∀ (s : State) (n v : Nat),
    (3 ≤ s.baseLen →
      (tooLarge s.cfg n → tooLarge s.cfg v → setUpCandidate n v s = restore { s with noun := n, verb := v }) ∧
      (tooLarge s.cfg n → ¬ tooLarge s.cfg v →
        setUpCandidate n v s = { restore { s with noun := n, verb := v } with mem := s.base.set 2 v }) ∧
      (¬ tooLarge s.cfg n → tooLarge s.cfg v →
        setUpCandidate n v s = { restore { s with noun := n, verb := v } with mem := s.base.set 1 n })) ∧
    (s.baseLen = 2 →
      (tooLarge s.cfg n → setUpCandidate n v s = faultedWith (restore { s with noun := n, verb := v }) .patchOOB 2 .none) ∧
      (¬ tooLarge s.cfg n → tooLarge s.cfg v → setUpCandidate n v s =
        { faultedWith (restore { s with noun := n, verb := v }) .patchOOB 2 .none with mem := s.base.set 1 n })) ∧
    (s.baseLen ≤ 1 → tooLarge s.cfg n ∨ tooLarge s.cfg v →
      setUpCandidate n v s = faultedWith (restore { s with noun := n, verb := v }) .patchOOB 1 .none)

/-- A search over a baseline of fewer than three cells ends `NotFound` with `SFCNT` the number of candidates, every one of them
stopped by PatchOOB at `IP` 0 before any step, in every build (43_search.md rule R185; after reset, 70_reset_and_hazards.md
rule R250). -/
def Obligations.ShortBaselineFaultsEveryCandidate : Prop :=
  ∀ (s : State) (target : Nat), s.baseLen < 3 →
    (∀ n v, setUpCandidate n v s = tryCandidate n v s ∧ (tryCandidate n v s).runState = .faulted ∧
      (tryCandidate n v s).fcause = .patchOOB ∧ (tryCandidate n v s).finfo = (if s.baseLen = 2 then 2 else 1) ∧
      (tryCandidate n v s).fslot = .none ∧ (tryCandidate n v s).ip = 0) ∧
    (searchWhole target s).sstate = .notFound ∧ (searchWhole target s).answer = 0 ∧
    (searchWhole target s).sfcnt = (candidates s).length ∧
    (s.nounLo ≤ s.nounHi → s.verbLo ≤ s.verbHi →
      (searchWhole target s).runState = .faulted ∧ (searchWhole target s).fcause = .patchOOB ∧
      (searchWhole target s).finfo = (if s.baseLen = 2 then 2 else 1) ∧ (searchWhole target s).ip = 0)

/-- The transitions of the phases `Exec` and `Check`, row by row. -/
def Obligations.ExecAndCheckPhaseTransitions : Prop :=
  (∀ (s : State) (n v : Nat), s.runActive = false → s.phase = .exec n v → s.runState ≠ .running →
    step s = .next { s with phase := .check n v }) ∧
  (∀ (s : State) (n v : Nat), s.runActive = false → s.phase = .check n v →
    s.runState = .halted → memRead s 0 = some s.target →
    step s = .next { s with answer := 100 * n + v, sstate := .found, phase := .done,
                            response := some (.found n v (100 * n + v)) }) ∧
  (∀ (s : State) (n v f : Nat), s.runActive = false → s.phase = .check n v →
    ¬ (s.runState = .halted ∧ memRead s 0 = some s.target) →
    (s.runState = .faulted ∧ f = s.sfcnt + 1 ∨ s.runState ≠ .faulted ∧ f = s.sfcnt) →
    (v < s.verbHi → step s = .next { s with sfcnt := f, phase := .load n (v + 1) }) ∧
    (v = s.verbHi → n < s.nounHi → step s = .next { s with sfcnt := f, phase := .load (n + 1) s.verbLo }) ∧
    (v = s.verbHi → n = s.nounHi →
      step s = .next { s with sfcnt := f, sstate := .notFound, phase := .done, response := some .notFound }))

/-- 43_search.md rule R190 (decision D17): a SEARCH over an empty range ends `NotFound` at once and leaves the Machine and the
pair. Over a range that is not empty it begins with the least candidate; that its acceptance clears the last command's response
is the model's choice (log entry 5). -/
def Obligations.EmptyRangeEndsNotFoundAtOnce : Prop :=
  ∀ (s : State) (target : Nat) (rest : List Command), nextCommand s (.search target) rest → ¬ tooLarge s.cfg target →
    ((s.nounHi < s.nounLo ∨ s.verbHi < s.verbLo) →
      step s = .next { s with target := target, answer := 0, sfcnt := 0, sstate := .notFound, phase := .done,
                              pending := rest, response := some .notFound }) ∧
    (s.nounLo ≤ s.nounHi → s.verbLo ≤ s.verbHi →
      step s = .next { s with target := target, answer := 0, sfcnt := 0, sstate := .searching,
                              phase := .load s.nounLo s.verbLo, pending := rest, response := none })

/-- 43_search.md rule R183: the candidates in ascending lexicographic order, by their number; with the bounds of reset
candidate number `k` is `(k div 100, k mod 100)`. -/
def Obligations.CandidatesAreEnumeratedNounMajor : Prop :=
  (∀ (s : State) (k : Nat), s.nounLo ≤ s.nounHi → s.verbLo ≤ s.verbHi →
    (candidates s).length = (s.nounHi + 1 - s.nounLo) * (s.verbHi + 1 - s.verbLo) ∧
    (k < (candidates s).length →
      (candidates s)[k]? = some (s.nounLo + k / (s.verbHi + 1 - s.verbLo), s.verbLo + k % (s.verbHi + 1 - s.verbLo)))) ∧
  (∀ (c : Config) (k : Nat), k < 10000 → (candidates (State.initial c))[k]? = some (k / 100, k % 100))

/-- The transition system of small steps runs the whole algorithm: from the acceptance of SEARCH the machine reaches exactly
the state in which the two nested loops of the algorithm end, and can then accept the host's next command. -/
def Obligations.SearchCommandRefinesNestedLoops : Prop :=
  ∀ (s : State) (target : Nat) (rest : List Command), nextCommand s (.search target) rest → ¬ tooLarge s.cfg target →
    ∃ k, Sys2Proof.core.run k s = .next (searchWhole target (withPending s rest)) ∧
      quiescent (searchWhole target (withPending s rest)) = true

/-- A search, after an earlier one too, is accepted and carried to the end of its algorithm within the bound on its steps: one
to accept it (the model's choice of log entry 4) and, for each candidate, one to set it up, the steps of its run, one to see the
run's end and one to check it. -/
def Obligations.SearchEndsWithinBound : Prop :=
  ∀ (s : State) (target : Nat) (rest : List Command), nextCommand s (.search target) rest → ¬ tooLarge s.cfg target →
    ∃ k t, k ≤ 1 + (s.nounHi + 1 - s.nounLo) * (s.verbHi + 1 - s.verbLo) * (s.baseLen / 4 + 4) ∧
      Sys2Proof.core.run k s = .next t ∧ t = searchWhole target (withPending s rest) ∧ t.pending = rest ∧ t.phase = .done ∧
      (t.sstate = .found ∨ t.sstate = .notFound)

/-- 43_search.md rule R188: the search reports the first candidate of the enumeration that matches, with its composite value,
and leaves the Machine as that candidate's run left it (decision D16). -/
def Obligations.SearchReportsFirstMatch : Prop :=
  ∀ (s : State) (target k n v : Nat), (candidates s)[k]? = some (n, v) →
    candidateMatches (tryCandidate n v (beginSearch target s)) = true →
    (∀ j n' v', j < k → (candidates s)[j]? = some (n', v') →
      candidateMatches (tryCandidate n' v' (beginSearch target s)) = false) →
    (searchWhole target s).sstate = .found ∧ (searchWhole target s).noun = n ∧ (searchWhole target s).verb = v ∧
    (searchWhole target s).answer = 100 * n + v ∧
    (searchWhole target s).response = some (.found n v (100 * n + v)) ∧
    (searchWhole target s).runState = .halted ∧ memRead (searchWhole target s) 0 = some target ∧
    sameMachine (tryCandidate n v (beginSearch target s)) (searchWhole target s)

/-- 43_search.md rule R189: a search whose every candidate fails to match ends `NotFound`, with `ANSWER` 0, `SFCNT` the number
of its faulted candidates and the Machine as the last candidate left it (decision D16). -/
def Obligations.ExhaustedSearchReportsNotFound : Prop :=
  ∀ (s : State) (target : Nat),
    (∀ n v, (n, v) ∈ candidates s → candidateMatches (tryCandidate n v (beginSearch target s)) = false) →
    (searchWhole target s).sstate = .notFound ∧ (searchWhole target s).answer = 0 ∧
    (searchWhole target s).response = some .notFound ∧
    (searchWhole target s).sfcnt = (candidates s).countP
      (fun p => decide ((tryCandidate p.1 p.2 (beginSearch target s)).runState = .faulted)) ∧
    (s.nounLo ≤ s.nounHi → s.verbLo ≤ s.verbHi →
      (searchWhole target s).noun = s.nounHi ∧ (searchWhole target s).verb = s.verbHi ∧
      sameMachine (tryCandidate s.nounHi s.verbHi (beginSearch target s)) (searchWhole target s))

/-- 10_state.md rule R34: `SFCNT` counts the candidates tried whose run ended `Faulted` (decision D11). -/
def Obligations.SfcntCountsFaultedCandidates : Prop :=
  ∀ (s : State) (target : Nat), ∃ k, k ≤ (candidates s).length ∧
    (searchWhole target s).sfcnt =
      ((candidates s).take k).countP
        (fun p => decide ((tryCandidate p.1 p.2 (beginSearch target s)).runState = .faulted)) ∧
    ((searchWhole target s).sstate = .notFound ∧ k = (candidates s).length ∨
      (searchWhole target s).sstate = .found ∧
        (candidates s)[k]? = some ((searchWhole target s).noun, (searchWhole target s).verb))

/-- 43_search.md rule R193: what a candidate's run ends in depends on the baseline and the pair only, and a search writes
neither the baseline nor the bounds. -/
def Obligations.CandidatesAreIsolated : Prop :=
  (∀ (s s' : State) (n v : Nat), s.cfg = s'.cfg → s.base = s'.base → sameMachine (tryCandidate n v s) (tryCandidate n v s')) ∧
  (∀ (s : State) (n v : Nat), (tryCandidate n v s).base = s.base ∧ (tryCandidate n v s).target = s.target ∧
    boundsUnchanged s (tryCandidate n v s)) ∧
  (∀ (s : State) (target : Nat), (searchWhole target s).base = s.base ∧ boundsUnchanged s (searchWhole target s))

/-- The search is reproducible: a second search for the same target ends in the very state of the first. -/
def Obligations.SearchIsReproducible : Prop :=
  ∀ (s : State) (target : Nat), searchWhole target (searchWhole target s) = searchWhole target s

/-! ## Invariants -/

/-- Every build meets the invariant right after reset. -/
def Obligations.ResetMeetsInvariant : Prop := (∀ c : Config, (State.initial c).Inv) ∧ State.reset.Inv

/-- Every step of the machine keeps the invariant, from every state that meets it. -/
def Obligations.StepKeepsInvariant : Prop := ∀ s t : State, s.Inv → step s = .next t → t.Inv
end

