-- ==== Sys2Proof/Laws/Decode.lean ====
section
/-! SUPPORT. What decoding a window can give (30_encoding.md rule R96). -/

namespace Sys2Proof

/-- Everything `decodeWindow` can answer, by the cells of the window. -/
theorem decodeWindow_cases (ws : List Nat) :
    (ws = [] ∧ decodeWindow ws = .shortWindow 0) ∨
    (∃ rest, ws = opHlt :: rest ∧ decodeWindow ws = .instr .hlt) ∨
    (∃ op rest, ws = op :: rest ∧ (op = opAdd ∨ op = opMul) ∧ rest.length < 3 ∧
      decodeWindow ws = .shortWindow (rest.length + 1)) ∨
    (∃ a b d rest, ws = opAdd :: a :: b :: d :: rest ∧ decodeWindow ws = .instr (.add a b d)) ∨
    (∃ a b d rest, ws = opMul :: a :: b :: d :: rest ∧ decodeWindow ws = .instr (.mul a b d)) ∨
    (∃ op rest, ws = op :: rest ∧ op ≠ opAdd ∧ op ≠ opMul ∧ op ≠ opHlt ∧ decodeWindow ws = .badOpcode op) := by
  rcases ws with _ | ⟨op, rest⟩
  · exact .inl ⟨rfl, rfl⟩
  by_cases h99 : op = opHlt
  · subst h99
    exact .inr (.inl ⟨rest, rfl, rfl⟩)
  by_cases h12 : op = opAdd ∨ op = opMul
  · rcases rest with _ | ⟨a, _ | ⟨b, _ | ⟨d, rest⟩⟩⟩
    · exact .inr (.inr (.inl ⟨op, [], rfl, h12, by simp, by simp [decodeWindow, h99, h12]⟩))
    · exact .inr (.inr (.inl ⟨op, [a], rfl, h12, by simp, by simp [decodeWindow, h99, h12]⟩))
    · exact .inr (.inr (.inl ⟨op, [a, b], rfl, h12, by simp, by simp [decodeWindow, h99, h12]⟩))
    · rcases h12 with rfl | rfl
      · exact .inr (.inr (.inr (.inl ⟨a, b, d, rest, rfl, rfl⟩)))
      · exact .inr (.inr (.inr (.inr (.inl ⟨a, b, d, rest, rfl, rfl⟩))))
  · refine .inr (.inr (.inr (.inr (.inr ⟨op, rest, rfl, ?_, ?_, h99, ?_⟩))))
    · exact fun h => h12 (.inl h)
    · exact fun h => h12 (.inr h)
    · simp [decodeWindow, h99, h12]

end Sys2Proof
end

