-- ==== Sys2Proof/Laws/State.lean ====
section
/-! SUPPORT. One lemma per field per named update of the state, true by `rfl`, so that no proof unfolds a record update. -/

namespace Sys2Proof.Machine

/-! ## `store` -/

@[simp] theorem store_mem (s : State) (a : Nat) (v : Nat) : (store s a v).mem = s.mem.set a v := rfl
@[simp] theorem store_ip (s : State) (a : Nat) (v : Nat) : (store s a v).ip = s.ip := rfl
@[simp] theorem store_runState (s : State) (a : Nat) (v : Nat) : (store s a v).runState = s.runState := rfl
@[simp] theorem store_fcause (s : State) (a : Nat) (v : Nat) : (store s a v).fcause = s.fcause := rfl
@[simp] theorem store_finfo (s : State) (a : Nat) (v : Nat) : (store s a v).finfo = s.finfo := rfl
@[simp] theorem store_fslot (s : State) (a : Nat) (v : Nat) : (store s a v).fslot = s.fslot := rfl
@[simp] theorem store_base (s : State) (a : Nat) (v : Nat) : (store s a v).base = s.base := rfl
@[simp] theorem store_target (s : State) (a : Nat) (v : Nat) : (store s a v).target = s.target := rfl
@[simp] theorem store_noun (s : State) (a : Nat) (v : Nat) : (store s a v).noun = s.noun := rfl
@[simp] theorem store_verb (s : State) (a : Nat) (v : Nat) : (store s a v).verb = s.verb := rfl
@[simp] theorem store_nounLo (s : State) (a : Nat) (v : Nat) : (store s a v).nounLo = s.nounLo := rfl
@[simp] theorem store_nounHi (s : State) (a : Nat) (v : Nat) : (store s a v).nounHi = s.nounHi := rfl
@[simp] theorem store_verbLo (s : State) (a : Nat) (v : Nat) : (store s a v).verbLo = s.verbLo := rfl
@[simp] theorem store_verbHi (s : State) (a : Nat) (v : Nat) : (store s a v).verbHi = s.verbHi := rfl
@[simp] theorem store_sstate (s : State) (a : Nat) (v : Nat) : (store s a v).sstate = s.sstate := rfl
@[simp] theorem store_answer (s : State) (a : Nat) (v : Nat) : (store s a v).answer = s.answer := rfl
@[simp] theorem store_sfcnt (s : State) (a : Nat) (v : Nat) : (store s a v).sfcnt = s.sfcnt := rfl
@[simp] theorem store_phase (s : State) (a : Nat) (v : Nat) : (store s a v).phase = s.phase := rfl
@[simp] theorem store_cfg (s : State) (a : Nat) (v : Nat) : (store s a v).cfg = s.cfg := rfl
@[simp] theorem store_runActive (s : State) (a : Nat) (v : Nat) : (store s a v).runActive = s.runActive := rfl
@[simp] theorem store_pending (s : State) (a : Nat) (v : Nat) : (store s a v).pending = s.pending := rfl
@[simp] theorem store_response (s : State) (a : Nat) (v : Nat) : (store s a v).response = s.response := rfl

/-! ## `raise` -/

@[simp] theorem raise_mem (s : State) (c : FaultCause) (n : Nat) (k : FaultSlot) : (raise s c n k).mem = s.mem := rfl
@[simp] theorem raise_ip (s : State) (c : FaultCause) (n : Nat) (k : FaultSlot) : (raise s c n k).ip = s.ip := rfl
@[simp] theorem raise_runState (s : State) (c : FaultCause) (n : Nat) (k : FaultSlot) : (raise s c n k).runState = .faulted := rfl
@[simp] theorem raise_fcause (s : State) (c : FaultCause) (n : Nat) (k : FaultSlot) : (raise s c n k).fcause = c := rfl
@[simp] theorem raise_finfo (s : State) (c : FaultCause) (n : Nat) (k : FaultSlot) : (raise s c n k).finfo = n := rfl
@[simp] theorem raise_fslot (s : State) (c : FaultCause) (n : Nat) (k : FaultSlot) : (raise s c n k).fslot = k := rfl
@[simp] theorem raise_base (s : State) (c : FaultCause) (n : Nat) (k : FaultSlot) : (raise s c n k).base = s.base := rfl
@[simp] theorem raise_target (s : State) (c : FaultCause) (n : Nat) (k : FaultSlot) : (raise s c n k).target = s.target := rfl
@[simp] theorem raise_noun (s : State) (c : FaultCause) (n : Nat) (k : FaultSlot) : (raise s c n k).noun = s.noun := rfl
@[simp] theorem raise_verb (s : State) (c : FaultCause) (n : Nat) (k : FaultSlot) : (raise s c n k).verb = s.verb := rfl
@[simp] theorem raise_nounLo (s : State) (c : FaultCause) (n : Nat) (k : FaultSlot) : (raise s c n k).nounLo = s.nounLo := rfl
@[simp] theorem raise_nounHi (s : State) (c : FaultCause) (n : Nat) (k : FaultSlot) : (raise s c n k).nounHi = s.nounHi := rfl
@[simp] theorem raise_verbLo (s : State) (c : FaultCause) (n : Nat) (k : FaultSlot) : (raise s c n k).verbLo = s.verbLo := rfl
@[simp] theorem raise_verbHi (s : State) (c : FaultCause) (n : Nat) (k : FaultSlot) : (raise s c n k).verbHi = s.verbHi := rfl
@[simp] theorem raise_sstate (s : State) (c : FaultCause) (n : Nat) (k : FaultSlot) : (raise s c n k).sstate = s.sstate := rfl
@[simp] theorem raise_answer (s : State) (c : FaultCause) (n : Nat) (k : FaultSlot) : (raise s c n k).answer = s.answer := rfl
@[simp] theorem raise_sfcnt (s : State) (c : FaultCause) (n : Nat) (k : FaultSlot) : (raise s c n k).sfcnt = s.sfcnt := rfl
@[simp] theorem raise_phase (s : State) (c : FaultCause) (n : Nat) (k : FaultSlot) : (raise s c n k).phase = s.phase := rfl
@[simp] theorem raise_cfg (s : State) (c : FaultCause) (n : Nat) (k : FaultSlot) : (raise s c n k).cfg = s.cfg := rfl
@[simp] theorem raise_runActive (s : State) (c : FaultCause) (n : Nat) (k : FaultSlot) : (raise s c n k).runActive = s.runActive := rfl
@[simp] theorem raise_pending (s : State) (c : FaultCause) (n : Nat) (k : FaultSlot) : (raise s c n k).pending = s.pending := rfl
@[simp] theorem raise_response (s : State) (c : FaultCause) (n : Nat) (k : FaultSlot) : (raise s c n k).response = s.response := rfl

/-! ## `clear` -/

@[simp] theorem clear_mem (s : State) : (clear s).mem = s.mem := rfl
@[simp] theorem clear_ip (s : State) : (clear s).ip = entry := rfl
@[simp] theorem clear_runState (s : State) : (clear s).runState = .running := rfl
@[simp] theorem clear_fcause (s : State) : (clear s).fcause = .none := rfl
@[simp] theorem clear_finfo (s : State) : (clear s).finfo = 0 := rfl
@[simp] theorem clear_fslot (s : State) : (clear s).fslot = .none := rfl
@[simp] theorem clear_base (s : State) : (clear s).base = s.base := rfl
@[simp] theorem clear_target (s : State) : (clear s).target = s.target := rfl
@[simp] theorem clear_noun (s : State) : (clear s).noun = s.noun := rfl
@[simp] theorem clear_verb (s : State) : (clear s).verb = s.verb := rfl
@[simp] theorem clear_nounLo (s : State) : (clear s).nounLo = s.nounLo := rfl
@[simp] theorem clear_nounHi (s : State) : (clear s).nounHi = s.nounHi := rfl
@[simp] theorem clear_verbLo (s : State) : (clear s).verbLo = s.verbLo := rfl
@[simp] theorem clear_verbHi (s : State) : (clear s).verbHi = s.verbHi := rfl
@[simp] theorem clear_sstate (s : State) : (clear s).sstate = s.sstate := rfl
@[simp] theorem clear_answer (s : State) : (clear s).answer = s.answer := rfl
@[simp] theorem clear_sfcnt (s : State) : (clear s).sfcnt = s.sfcnt := rfl
@[simp] theorem clear_phase (s : State) : (clear s).phase = s.phase := rfl
@[simp] theorem clear_cfg (s : State) : (clear s).cfg = s.cfg := rfl
@[simp] theorem clear_runActive (s : State) : (clear s).runActive = s.runActive := rfl
@[simp] theorem clear_pending (s : State) : (clear s).pending = s.pending := rfl
@[simp] theorem clear_response (s : State) : (clear s).response = s.response := rfl

/-! ## `advance` -/

@[simp] theorem advance_mem (s : State) : (advance s).mem = s.mem := rfl
@[simp] theorem advance_ip (s : State) : (advance s).ip = s.ip + stride := rfl
@[simp] theorem advance_runState (s : State) : (advance s).runState = s.runState := rfl
@[simp] theorem advance_fcause (s : State) : (advance s).fcause = s.fcause := rfl
@[simp] theorem advance_finfo (s : State) : (advance s).finfo = s.finfo := rfl
@[simp] theorem advance_fslot (s : State) : (advance s).fslot = s.fslot := rfl
@[simp] theorem advance_base (s : State) : (advance s).base = s.base := rfl
@[simp] theorem advance_target (s : State) : (advance s).target = s.target := rfl
@[simp] theorem advance_noun (s : State) : (advance s).noun = s.noun := rfl
@[simp] theorem advance_verb (s : State) : (advance s).verb = s.verb := rfl
@[simp] theorem advance_nounLo (s : State) : (advance s).nounLo = s.nounLo := rfl
@[simp] theorem advance_nounHi (s : State) : (advance s).nounHi = s.nounHi := rfl
@[simp] theorem advance_verbLo (s : State) : (advance s).verbLo = s.verbLo := rfl
@[simp] theorem advance_verbHi (s : State) : (advance s).verbHi = s.verbHi := rfl
@[simp] theorem advance_sstate (s : State) : (advance s).sstate = s.sstate := rfl
@[simp] theorem advance_answer (s : State) : (advance s).answer = s.answer := rfl
@[simp] theorem advance_sfcnt (s : State) : (advance s).sfcnt = s.sfcnt := rfl
@[simp] theorem advance_phase (s : State) : (advance s).phase = s.phase := rfl
@[simp] theorem advance_cfg (s : State) : (advance s).cfg = s.cfg := rfl
@[simp] theorem advance_runActive (s : State) : (advance s).runActive = s.runActive := rfl
@[simp] theorem advance_pending (s : State) : (advance s).pending = s.pending := rfl
@[simp] theorem advance_response (s : State) : (advance s).response = s.response := rfl

/-! ## `halt` -/

@[simp] theorem halt_mem (s : State) : (halt s).mem = s.mem := rfl
@[simp] theorem halt_ip (s : State) : (halt s).ip = s.ip := rfl
@[simp] theorem halt_runState (s : State) : (halt s).runState = .halted := rfl
@[simp] theorem halt_fcause (s : State) : (halt s).fcause = s.fcause := rfl
@[simp] theorem halt_finfo (s : State) : (halt s).finfo = s.finfo := rfl
@[simp] theorem halt_fslot (s : State) : (halt s).fslot = s.fslot := rfl
@[simp] theorem halt_base (s : State) : (halt s).base = s.base := rfl
@[simp] theorem halt_target (s : State) : (halt s).target = s.target := rfl
@[simp] theorem halt_noun (s : State) : (halt s).noun = s.noun := rfl
@[simp] theorem halt_verb (s : State) : (halt s).verb = s.verb := rfl
@[simp] theorem halt_nounLo (s : State) : (halt s).nounLo = s.nounLo := rfl
@[simp] theorem halt_nounHi (s : State) : (halt s).nounHi = s.nounHi := rfl
@[simp] theorem halt_verbLo (s : State) : (halt s).verbLo = s.verbLo := rfl
@[simp] theorem halt_verbHi (s : State) : (halt s).verbHi = s.verbHi := rfl
@[simp] theorem halt_sstate (s : State) : (halt s).sstate = s.sstate := rfl
@[simp] theorem halt_answer (s : State) : (halt s).answer = s.answer := rfl
@[simp] theorem halt_sfcnt (s : State) : (halt s).sfcnt = s.sfcnt := rfl
@[simp] theorem halt_phase (s : State) : (halt s).phase = s.phase := rfl
@[simp] theorem halt_cfg (s : State) : (halt s).cfg = s.cfg := rfl
@[simp] theorem halt_runActive (s : State) : (halt s).runActive = s.runActive := rfl
@[simp] theorem halt_pending (s : State) : (halt s).pending = s.pending := rfl
@[simp] theorem halt_response (s : State) : (halt s).response = s.response := rfl

/-! ## `respond` -/

@[simp] theorem respond_mem (s : State) (r : Response) : (respond s r).mem = s.mem := rfl
@[simp] theorem respond_ip (s : State) (r : Response) : (respond s r).ip = s.ip := rfl
@[simp] theorem respond_runState (s : State) (r : Response) : (respond s r).runState = s.runState := rfl
@[simp] theorem respond_fcause (s : State) (r : Response) : (respond s r).fcause = s.fcause := rfl
@[simp] theorem respond_finfo (s : State) (r : Response) : (respond s r).finfo = s.finfo := rfl
@[simp] theorem respond_fslot (s : State) (r : Response) : (respond s r).fslot = s.fslot := rfl
@[simp] theorem respond_base (s : State) (r : Response) : (respond s r).base = s.base := rfl
@[simp] theorem respond_target (s : State) (r : Response) : (respond s r).target = s.target := rfl
@[simp] theorem respond_noun (s : State) (r : Response) : (respond s r).noun = s.noun := rfl
@[simp] theorem respond_verb (s : State) (r : Response) : (respond s r).verb = s.verb := rfl
@[simp] theorem respond_nounLo (s : State) (r : Response) : (respond s r).nounLo = s.nounLo := rfl
@[simp] theorem respond_nounHi (s : State) (r : Response) : (respond s r).nounHi = s.nounHi := rfl
@[simp] theorem respond_verbLo (s : State) (r : Response) : (respond s r).verbLo = s.verbLo := rfl
@[simp] theorem respond_verbHi (s : State) (r : Response) : (respond s r).verbHi = s.verbHi := rfl
@[simp] theorem respond_sstate (s : State) (r : Response) : (respond s r).sstate = s.sstate := rfl
@[simp] theorem respond_answer (s : State) (r : Response) : (respond s r).answer = s.answer := rfl
@[simp] theorem respond_sfcnt (s : State) (r : Response) : (respond s r).sfcnt = s.sfcnt := rfl
@[simp] theorem respond_phase (s : State) (r : Response) : (respond s r).phase = s.phase := rfl
@[simp] theorem respond_cfg (s : State) (r : Response) : (respond s r).cfg = s.cfg := rfl
@[simp] theorem respond_runActive (s : State) (r : Response) : (respond s r).runActive = s.runActive := rfl
@[simp] theorem respond_pending (s : State) (r : Response) : (respond s r).pending = s.pending := rfl
@[simp] theorem respond_response (s : State) (r : Response) : (respond s r).response = some r := rfl

/-! ## `toPhase` -/

@[simp] theorem toPhase_mem (s : State) (p : Phase) : (toPhase s p).mem = s.mem := rfl
@[simp] theorem toPhase_ip (s : State) (p : Phase) : (toPhase s p).ip = s.ip := rfl
@[simp] theorem toPhase_runState (s : State) (p : Phase) : (toPhase s p).runState = s.runState := rfl
@[simp] theorem toPhase_fcause (s : State) (p : Phase) : (toPhase s p).fcause = s.fcause := rfl
@[simp] theorem toPhase_finfo (s : State) (p : Phase) : (toPhase s p).finfo = s.finfo := rfl
@[simp] theorem toPhase_fslot (s : State) (p : Phase) : (toPhase s p).fslot = s.fslot := rfl
@[simp] theorem toPhase_base (s : State) (p : Phase) : (toPhase s p).base = s.base := rfl
@[simp] theorem toPhase_target (s : State) (p : Phase) : (toPhase s p).target = s.target := rfl
@[simp] theorem toPhase_noun (s : State) (p : Phase) : (toPhase s p).noun = s.noun := rfl
@[simp] theorem toPhase_verb (s : State) (p : Phase) : (toPhase s p).verb = s.verb := rfl
@[simp] theorem toPhase_nounLo (s : State) (p : Phase) : (toPhase s p).nounLo = s.nounLo := rfl
@[simp] theorem toPhase_nounHi (s : State) (p : Phase) : (toPhase s p).nounHi = s.nounHi := rfl
@[simp] theorem toPhase_verbLo (s : State) (p : Phase) : (toPhase s p).verbLo = s.verbLo := rfl
@[simp] theorem toPhase_verbHi (s : State) (p : Phase) : (toPhase s p).verbHi = s.verbHi := rfl
@[simp] theorem toPhase_sstate (s : State) (p : Phase) : (toPhase s p).sstate = s.sstate := rfl
@[simp] theorem toPhase_answer (s : State) (p : Phase) : (toPhase s p).answer = s.answer := rfl
@[simp] theorem toPhase_sfcnt (s : State) (p : Phase) : (toPhase s p).sfcnt = s.sfcnt := rfl
@[simp] theorem toPhase_phase (s : State) (p : Phase) : (toPhase s p).phase = p := rfl
@[simp] theorem toPhase_cfg (s : State) (p : Phase) : (toPhase s p).cfg = s.cfg := rfl
@[simp] theorem toPhase_runActive (s : State) (p : Phase) : (toPhase s p).runActive = s.runActive := rfl
@[simp] theorem toPhase_pending (s : State) (p : Phase) : (toPhase s p).pending = s.pending := rfl
@[simp] theorem toPhase_response (s : State) (p : Phase) : (toPhase s p).response = s.response := rfl

/-! ## `withPending` -/

@[simp] theorem withPending_mem (s : State) (cs : List Command) : (withPending s cs).mem = s.mem := rfl
@[simp] theorem withPending_ip (s : State) (cs : List Command) : (withPending s cs).ip = s.ip := rfl
@[simp] theorem withPending_runState (s : State) (cs : List Command) : (withPending s cs).runState = s.runState := rfl
@[simp] theorem withPending_fcause (s : State) (cs : List Command) : (withPending s cs).fcause = s.fcause := rfl
@[simp] theorem withPending_finfo (s : State) (cs : List Command) : (withPending s cs).finfo = s.finfo := rfl
@[simp] theorem withPending_fslot (s : State) (cs : List Command) : (withPending s cs).fslot = s.fslot := rfl
@[simp] theorem withPending_base (s : State) (cs : List Command) : (withPending s cs).base = s.base := rfl
@[simp] theorem withPending_target (s : State) (cs : List Command) : (withPending s cs).target = s.target := rfl
@[simp] theorem withPending_noun (s : State) (cs : List Command) : (withPending s cs).noun = s.noun := rfl
@[simp] theorem withPending_verb (s : State) (cs : List Command) : (withPending s cs).verb = s.verb := rfl
@[simp] theorem withPending_nounLo (s : State) (cs : List Command) : (withPending s cs).nounLo = s.nounLo := rfl
@[simp] theorem withPending_nounHi (s : State) (cs : List Command) : (withPending s cs).nounHi = s.nounHi := rfl
@[simp] theorem withPending_verbLo (s : State) (cs : List Command) : (withPending s cs).verbLo = s.verbLo := rfl
@[simp] theorem withPending_verbHi (s : State) (cs : List Command) : (withPending s cs).verbHi = s.verbHi := rfl
@[simp] theorem withPending_sstate (s : State) (cs : List Command) : (withPending s cs).sstate = s.sstate := rfl
@[simp] theorem withPending_answer (s : State) (cs : List Command) : (withPending s cs).answer = s.answer := rfl
@[simp] theorem withPending_sfcnt (s : State) (cs : List Command) : (withPending s cs).sfcnt = s.sfcnt := rfl
@[simp] theorem withPending_phase (s : State) (cs : List Command) : (withPending s cs).phase = s.phase := rfl
@[simp] theorem withPending_cfg (s : State) (cs : List Command) : (withPending s cs).cfg = s.cfg := rfl
@[simp] theorem withPending_runActive (s : State) (cs : List Command) : (withPending s cs).runActive = s.runActive := rfl
@[simp] theorem withPending_pending (s : State) (cs : List Command) : (withPending s cs).pending = cs := rfl
@[simp] theorem withPending_response (s : State) (cs : List Command) : (withPending s cs).response = s.response := rfl

/-! ## `finishRun` -/

@[simp] theorem finishRun_mem (s : State) : (finishRun s).mem = s.mem := rfl
@[simp] theorem finishRun_ip (s : State) : (finishRun s).ip = s.ip := rfl
@[simp] theorem finishRun_runState (s : State) : (finishRun s).runState = s.runState := rfl
@[simp] theorem finishRun_fcause (s : State) : (finishRun s).fcause = s.fcause := rfl
@[simp] theorem finishRun_finfo (s : State) : (finishRun s).finfo = s.finfo := rfl
@[simp] theorem finishRun_fslot (s : State) : (finishRun s).fslot = s.fslot := rfl
@[simp] theorem finishRun_base (s : State) : (finishRun s).base = s.base := rfl
@[simp] theorem finishRun_target (s : State) : (finishRun s).target = s.target := rfl
@[simp] theorem finishRun_noun (s : State) : (finishRun s).noun = s.noun := rfl
@[simp] theorem finishRun_verb (s : State) : (finishRun s).verb = s.verb := rfl
@[simp] theorem finishRun_nounLo (s : State) : (finishRun s).nounLo = s.nounLo := rfl
@[simp] theorem finishRun_nounHi (s : State) : (finishRun s).nounHi = s.nounHi := rfl
@[simp] theorem finishRun_verbLo (s : State) : (finishRun s).verbLo = s.verbLo := rfl
@[simp] theorem finishRun_verbHi (s : State) : (finishRun s).verbHi = s.verbHi := rfl
@[simp] theorem finishRun_sstate (s : State) : (finishRun s).sstate = s.sstate := rfl
@[simp] theorem finishRun_answer (s : State) : (finishRun s).answer = s.answer := rfl
@[simp] theorem finishRun_sfcnt (s : State) : (finishRun s).sfcnt = s.sfcnt := rfl
@[simp] theorem finishRun_phase (s : State) : (finishRun s).phase = s.phase := rfl
@[simp] theorem finishRun_cfg (s : State) : (finishRun s).cfg = s.cfg := rfl
@[simp] theorem finishRun_runActive (s : State) : (finishRun s).runActive = false := rfl
@[simp] theorem finishRun_pending (s : State) : (finishRun s).pending = s.pending := rfl
@[simp] theorem finishRun_response (s : State) : (finishRun s).response = some (runResponse s) := rfl

/-! ## `restore` -/

@[simp] theorem restore_mem (s : State) : (restore s).mem = s.base := rfl
@[simp] theorem restore_ip (s : State) : (restore s).ip = entry := rfl
@[simp] theorem restore_runState (s : State) : (restore s).runState = .running := rfl
@[simp] theorem restore_fcause (s : State) : (restore s).fcause = .none := rfl
@[simp] theorem restore_finfo (s : State) : (restore s).finfo = 0 := rfl
@[simp] theorem restore_fslot (s : State) : (restore s).fslot = .none := rfl
@[simp] theorem restore_base (s : State) : (restore s).base = s.base := rfl
@[simp] theorem restore_target (s : State) : (restore s).target = s.target := rfl
@[simp] theorem restore_noun (s : State) : (restore s).noun = s.noun := rfl
@[simp] theorem restore_verb (s : State) : (restore s).verb = s.verb := rfl
@[simp] theorem restore_nounLo (s : State) : (restore s).nounLo = s.nounLo := rfl
@[simp] theorem restore_nounHi (s : State) : (restore s).nounHi = s.nounHi := rfl
@[simp] theorem restore_verbLo (s : State) : (restore s).verbLo = s.verbLo := rfl
@[simp] theorem restore_verbHi (s : State) : (restore s).verbHi = s.verbHi := rfl
@[simp] theorem restore_sstate (s : State) : (restore s).sstate = s.sstate := rfl
@[simp] theorem restore_answer (s : State) : (restore s).answer = s.answer := rfl
@[simp] theorem restore_sfcnt (s : State) : (restore s).sfcnt = s.sfcnt := rfl
@[simp] theorem restore_phase (s : State) : (restore s).phase = s.phase := rfl
@[simp] theorem restore_cfg (s : State) : (restore s).cfg = s.cfg := rfl
@[simp] theorem restore_runActive (s : State) : (restore s).runActive = s.runActive := rfl
@[simp] theorem restore_pending (s : State) : (restore s).pending = s.pending := rfl
@[simp] theorem restore_response (s : State) : (restore s).response = s.response := rfl

/-! ## `countFault` -/

@[simp] theorem countFault_mem (s : State) : (countFault s).mem = s.mem := rfl
@[simp] theorem countFault_ip (s : State) : (countFault s).ip = s.ip := rfl
@[simp] theorem countFault_runState (s : State) : (countFault s).runState = s.runState := rfl
@[simp] theorem countFault_fcause (s : State) : (countFault s).fcause = s.fcause := rfl
@[simp] theorem countFault_finfo (s : State) : (countFault s).finfo = s.finfo := rfl
@[simp] theorem countFault_fslot (s : State) : (countFault s).fslot = s.fslot := rfl
@[simp] theorem countFault_base (s : State) : (countFault s).base = s.base := rfl
@[simp] theorem countFault_target (s : State) : (countFault s).target = s.target := rfl
@[simp] theorem countFault_noun (s : State) : (countFault s).noun = s.noun := rfl
@[simp] theorem countFault_verb (s : State) : (countFault s).verb = s.verb := rfl
@[simp] theorem countFault_nounLo (s : State) : (countFault s).nounLo = s.nounLo := rfl
@[simp] theorem countFault_nounHi (s : State) : (countFault s).nounHi = s.nounHi := rfl
@[simp] theorem countFault_verbLo (s : State) : (countFault s).verbLo = s.verbLo := rfl
@[simp] theorem countFault_verbHi (s : State) : (countFault s).verbHi = s.verbHi := rfl
@[simp] theorem countFault_sstate (s : State) : (countFault s).sstate = s.sstate := rfl
@[simp] theorem countFault_answer (s : State) : (countFault s).answer = s.answer := rfl
@[simp] theorem countFault_sfcnt (s : State) : (countFault s).sfcnt = if s.runState = .faulted then s.sfcnt + 1 else s.sfcnt := rfl
@[simp] theorem countFault_phase (s : State) : (countFault s).phase = s.phase := rfl
@[simp] theorem countFault_cfg (s : State) : (countFault s).cfg = s.cfg := rfl
@[simp] theorem countFault_runActive (s : State) : (countFault s).runActive = s.runActive := rfl
@[simp] theorem countFault_pending (s : State) : (countFault s).pending = s.pending := rfl
@[simp] theorem countFault_response (s : State) : (countFault s).response = s.response := rfl

/-! ## `beginSearch` -/

@[simp] theorem beginSearch_mem (s : State) (g : Nat) : (beginSearch g s).mem = s.mem := rfl
@[simp] theorem beginSearch_ip (s : State) (g : Nat) : (beginSearch g s).ip = s.ip := rfl
@[simp] theorem beginSearch_runState (s : State) (g : Nat) : (beginSearch g s).runState = s.runState := rfl
@[simp] theorem beginSearch_fcause (s : State) (g : Nat) : (beginSearch g s).fcause = s.fcause := rfl
@[simp] theorem beginSearch_finfo (s : State) (g : Nat) : (beginSearch g s).finfo = s.finfo := rfl
@[simp] theorem beginSearch_fslot (s : State) (g : Nat) : (beginSearch g s).fslot = s.fslot := rfl
@[simp] theorem beginSearch_base (s : State) (g : Nat) : (beginSearch g s).base = s.base := rfl
@[simp] theorem beginSearch_target (s : State) (g : Nat) : (beginSearch g s).target = g := rfl
@[simp] theorem beginSearch_noun (s : State) (g : Nat) : (beginSearch g s).noun = s.noun := rfl
@[simp] theorem beginSearch_verb (s : State) (g : Nat) : (beginSearch g s).verb = s.verb := rfl
@[simp] theorem beginSearch_nounLo (s : State) (g : Nat) : (beginSearch g s).nounLo = s.nounLo := rfl
@[simp] theorem beginSearch_nounHi (s : State) (g : Nat) : (beginSearch g s).nounHi = s.nounHi := rfl
@[simp] theorem beginSearch_verbLo (s : State) (g : Nat) : (beginSearch g s).verbLo = s.verbLo := rfl
@[simp] theorem beginSearch_verbHi (s : State) (g : Nat) : (beginSearch g s).verbHi = s.verbHi := rfl
@[simp] theorem beginSearch_sstate (s : State) (g : Nat) : (beginSearch g s).sstate = .searching := rfl
@[simp] theorem beginSearch_answer (s : State) (g : Nat) : (beginSearch g s).answer = 0 := rfl
@[simp] theorem beginSearch_sfcnt (s : State) (g : Nat) : (beginSearch g s).sfcnt = 0 := rfl
@[simp] theorem beginSearch_phase (s : State) (g : Nat) : (beginSearch g s).phase = s.phase := rfl
@[simp] theorem beginSearch_cfg (s : State) (g : Nat) : (beginSearch g s).cfg = s.cfg := rfl
@[simp] theorem beginSearch_runActive (s : State) (g : Nat) : (beginSearch g s).runActive = s.runActive := rfl
@[simp] theorem beginSearch_pending (s : State) (g : Nat) : (beginSearch g s).pending = s.pending := rfl
@[simp] theorem beginSearch_response (s : State) (g : Nat) : (beginSearch g s).response = none := rfl

/-! ## `finishFound` -/

@[simp] theorem finishFound_mem (s : State) (n v : Nat) : (finishFound n v s).mem = s.mem := rfl
@[simp] theorem finishFound_ip (s : State) (n v : Nat) : (finishFound n v s).ip = s.ip := rfl
@[simp] theorem finishFound_runState (s : State) (n v : Nat) : (finishFound n v s).runState = s.runState := rfl
@[simp] theorem finishFound_fcause (s : State) (n v : Nat) : (finishFound n v s).fcause = s.fcause := rfl
@[simp] theorem finishFound_finfo (s : State) (n v : Nat) : (finishFound n v s).finfo = s.finfo := rfl
@[simp] theorem finishFound_fslot (s : State) (n v : Nat) : (finishFound n v s).fslot = s.fslot := rfl
@[simp] theorem finishFound_base (s : State) (n v : Nat) : (finishFound n v s).base = s.base := rfl
@[simp] theorem finishFound_target (s : State) (n v : Nat) : (finishFound n v s).target = s.target := rfl
@[simp] theorem finishFound_noun (s : State) (n v : Nat) : (finishFound n v s).noun = s.noun := rfl
@[simp] theorem finishFound_verb (s : State) (n v : Nat) : (finishFound n v s).verb = s.verb := rfl
@[simp] theorem finishFound_nounLo (s : State) (n v : Nat) : (finishFound n v s).nounLo = s.nounLo := rfl
@[simp] theorem finishFound_nounHi (s : State) (n v : Nat) : (finishFound n v s).nounHi = s.nounHi := rfl
@[simp] theorem finishFound_verbLo (s : State) (n v : Nat) : (finishFound n v s).verbLo = s.verbLo := rfl
@[simp] theorem finishFound_verbHi (s : State) (n v : Nat) : (finishFound n v s).verbHi = s.verbHi := rfl
@[simp] theorem finishFound_sstate (s : State) (n v : Nat) : (finishFound n v s).sstate = .found := rfl
@[simp] theorem finishFound_answer (s : State) (n v : Nat) : (finishFound n v s).answer = composite n v := rfl
@[simp] theorem finishFound_sfcnt (s : State) (n v : Nat) : (finishFound n v s).sfcnt = s.sfcnt := rfl
@[simp] theorem finishFound_phase (s : State) (n v : Nat) : (finishFound n v s).phase = .done := rfl
@[simp] theorem finishFound_cfg (s : State) (n v : Nat) : (finishFound n v s).cfg = s.cfg := rfl
@[simp] theorem finishFound_runActive (s : State) (n v : Nat) : (finishFound n v s).runActive = s.runActive := rfl
@[simp] theorem finishFound_pending (s : State) (n v : Nat) : (finishFound n v s).pending = s.pending := rfl
@[simp] theorem finishFound_response (s : State) (n v : Nat) : (finishFound n v s).response = some (.found n v (composite n v)) := rfl

/-! ## `finishNotFound` -/

@[simp] theorem finishNotFound_mem (s : State) : (finishNotFound s).mem = s.mem := rfl
@[simp] theorem finishNotFound_ip (s : State) : (finishNotFound s).ip = s.ip := rfl
@[simp] theorem finishNotFound_runState (s : State) : (finishNotFound s).runState = s.runState := rfl
@[simp] theorem finishNotFound_fcause (s : State) : (finishNotFound s).fcause = s.fcause := rfl
@[simp] theorem finishNotFound_finfo (s : State) : (finishNotFound s).finfo = s.finfo := rfl
@[simp] theorem finishNotFound_fslot (s : State) : (finishNotFound s).fslot = s.fslot := rfl
@[simp] theorem finishNotFound_base (s : State) : (finishNotFound s).base = s.base := rfl
@[simp] theorem finishNotFound_target (s : State) : (finishNotFound s).target = s.target := rfl
@[simp] theorem finishNotFound_noun (s : State) : (finishNotFound s).noun = s.noun := rfl
@[simp] theorem finishNotFound_verb (s : State) : (finishNotFound s).verb = s.verb := rfl
@[simp] theorem finishNotFound_nounLo (s : State) : (finishNotFound s).nounLo = s.nounLo := rfl
@[simp] theorem finishNotFound_nounHi (s : State) : (finishNotFound s).nounHi = s.nounHi := rfl
@[simp] theorem finishNotFound_verbLo (s : State) : (finishNotFound s).verbLo = s.verbLo := rfl
@[simp] theorem finishNotFound_verbHi (s : State) : (finishNotFound s).verbHi = s.verbHi := rfl
@[simp] theorem finishNotFound_sstate (s : State) : (finishNotFound s).sstate = .notFound := rfl
@[simp] theorem finishNotFound_answer (s : State) : (finishNotFound s).answer = s.answer := rfl
@[simp] theorem finishNotFound_sfcnt (s : State) : (finishNotFound s).sfcnt = s.sfcnt := rfl
@[simp] theorem finishNotFound_phase (s : State) : (finishNotFound s).phase = .done := rfl
@[simp] theorem finishNotFound_cfg (s : State) : (finishNotFound s).cfg = s.cfg := rfl
@[simp] theorem finishNotFound_runActive (s : State) : (finishNotFound s).runActive = s.runActive := rfl
@[simp] theorem finishNotFound_pending (s : State) : (finishNotFound s).pending = s.pending := rfl
@[simp] theorem finishNotFound_response (s : State) : (finishNotFound s).response = some .notFound := rfl

/-! ## `loadImage` -/

@[simp] theorem loadImage_mem (s : State) (image : List Nat) : (loadImage image s).mem = image := rfl
@[simp] theorem loadImage_ip (s : State) (image : List Nat) : (loadImage image s).ip = entry := rfl
@[simp] theorem loadImage_runState (s : State) (image : List Nat) : (loadImage image s).runState = .running := rfl
@[simp] theorem loadImage_fcause (s : State) (image : List Nat) : (loadImage image s).fcause = .none := rfl
@[simp] theorem loadImage_finfo (s : State) (image : List Nat) : (loadImage image s).finfo = 0 := rfl
@[simp] theorem loadImage_fslot (s : State) (image : List Nat) : (loadImage image s).fslot = .none := rfl
@[simp] theorem loadImage_base (s : State) (image : List Nat) : (loadImage image s).base = image := rfl
@[simp] theorem loadImage_target (s : State) (image : List Nat) : (loadImage image s).target = 0 := rfl
@[simp] theorem loadImage_noun (s : State) (image : List Nat) : (loadImage image s).noun = 0 := rfl
@[simp] theorem loadImage_verb (s : State) (image : List Nat) : (loadImage image s).verb = 0 := rfl
@[simp] theorem loadImage_nounLo (s : State) (image : List Nat) : (loadImage image s).nounLo = s.nounLo := rfl
@[simp] theorem loadImage_nounHi (s : State) (image : List Nat) : (loadImage image s).nounHi = s.nounHi := rfl
@[simp] theorem loadImage_verbLo (s : State) (image : List Nat) : (loadImage image s).verbLo = s.verbLo := rfl
@[simp] theorem loadImage_verbHi (s : State) (image : List Nat) : (loadImage image s).verbHi = s.verbHi := rfl
@[simp] theorem loadImage_sstate (s : State) (image : List Nat) : (loadImage image s).sstate = .idle := rfl
@[simp] theorem loadImage_answer (s : State) (image : List Nat) : (loadImage image s).answer = 0 := rfl
@[simp] theorem loadImage_sfcnt (s : State) (image : List Nat) : (loadImage image s).sfcnt = 0 := rfl
@[simp] theorem loadImage_phase (s : State) (image : List Nat) : (loadImage image s).phase = .idle := rfl
@[simp] theorem loadImage_cfg (s : State) (image : List Nat) : (loadImage image s).cfg = s.cfg := rfl
@[simp] theorem loadImage_runActive (s : State) (image : List Nat) : (loadImage image s).runActive = s.runActive := rfl
@[simp] theorem loadImage_pending (s : State) (image : List Nat) : (loadImage image s).pending = s.pending := rfl
@[simp] theorem loadImage_response (s : State) (image : List Nat) : (loadImage image s).response = s.response := rfl

/-! ## `refuse` -/

@[simp] theorem refuse_mem (s : State) : (refuse s).mem = s.mem := rfl
@[simp] theorem refuse_ip (s : State) : (refuse s).ip = s.ip := rfl
@[simp] theorem refuse_runState (s : State) : (refuse s).runState = s.runState := rfl
@[simp] theorem refuse_fcause (s : State) : (refuse s).fcause = s.fcause := rfl
@[simp] theorem refuse_finfo (s : State) : (refuse s).finfo = s.finfo := rfl
@[simp] theorem refuse_fslot (s : State) : (refuse s).fslot = s.fslot := rfl
@[simp] theorem refuse_base (s : State) : (refuse s).base = s.base := rfl
@[simp] theorem refuse_target (s : State) : (refuse s).target = s.target := rfl
@[simp] theorem refuse_noun (s : State) : (refuse s).noun = s.noun := rfl
@[simp] theorem refuse_verb (s : State) : (refuse s).verb = s.verb := rfl
@[simp] theorem refuse_nounLo (s : State) : (refuse s).nounLo = s.nounLo := rfl
@[simp] theorem refuse_nounHi (s : State) : (refuse s).nounHi = s.nounHi := rfl
@[simp] theorem refuse_verbLo (s : State) : (refuse s).verbLo = s.verbLo := rfl
@[simp] theorem refuse_verbHi (s : State) : (refuse s).verbHi = s.verbHi := rfl
@[simp] theorem refuse_sstate (s : State) : (refuse s).sstate = s.sstate := rfl
@[simp] theorem refuse_answer (s : State) : (refuse s).answer = s.answer := rfl
@[simp] theorem refuse_sfcnt (s : State) : (refuse s).sfcnt = s.sfcnt := rfl
@[simp] theorem refuse_phase (s : State) : (refuse s).phase = s.phase := rfl
@[simp] theorem refuse_cfg (s : State) : (refuse s).cfg = s.cfg := rfl
@[simp] theorem refuse_runActive (s : State) : (refuse s).runActive = s.runActive := rfl
@[simp] theorem refuse_pending (s : State) : (refuse s).pending = s.pending := rfl
@[simp] theorem refuse_response (s : State) : (refuse s).response = some .refused := rfl

end Sys2Proof.Machine
end

