-- ==== Sys2Proof/Laws/Memory.lean ====
section
/-! SUPPORT. The memory controller: what a read gives, what a write changes and leaves, and that every memory operation keeps
the canonical form `Memory.wf`. -/

namespace Sys2Proof.Machine

@[simp] theorem memLen_eq (s : State) : s.memLen = s.mem.length := rfl

@[simp] theorem baseLen_eq (s : State) : s.baseLen = s.base.length := rfl

theorem memRead_eq_none_iff (s : State) (a : Nat) : memRead s a = none ↔ s.mem.length ≤ a := by
  simp [memRead]

theorem memRead_of_inBounds {s : State} {a : Nat} (h : a < s.mem.length) : memRead s a = some s.mem[a] := by
  simp [memRead, h]

theorem inBounds_of_memRead {s : State} {a : Nat} {v : Nat} (h : memRead s a = some v) : a < s.mem.length :=
  (List.getElem?_eq_some_iff.mp h).1

@[simp] theorem inBounds_eq_true_iff (s : State) (a : Nat) : inBounds s a = true ↔ a < s.mem.length := by
  simp [inBounds]

@[simp] theorem inBounds_eq_false_iff (s : State) (a : Nat) : inBounds s a = false ↔ s.mem.length ≤ a := by
  simp [inBounds]

theorem memRead_store_same {s : State} {a : Nat} (v : Nat) (h : a < s.mem.length) :
    memRead (store s a v) a = some v := by
  simp [memRead, h]

theorem memRead_store_other (s : State) {a b : Nat} (v : Nat) (h : b ≠ a) :
    memRead (store s a v) b = memRead s b := by
  simp [memRead, List.getElem?_set_ne (Ne.symm h)]

/-- What `MemWrite` can answer (20_memory.md rule R65). -/
theorem memWrite_cases (s : State) (a : Nat) (v : Nat) :
    (a < s.mem.length ∧ memWrite s a v = some (store s a v)) ∨ (s.mem.length ≤ a ∧ memWrite s a v = none) := by
  by_cases h : a < s.mem.length
  · exact .inl ⟨h, by simp [memWrite, h]⟩
  · exact .inr ⟨by omega, by simp [memWrite, h]⟩

/-! ## The value domain and the canonical form -/

theorem fits_mono {c : Config} {u v : Nat} (h : u ≤ v) (hv : c.fits v = true) : c.fits u = true := by
  unfold Config.fits fitsBits at *
  split at hv
  · rfl
  · simp only [decide_eq_true_eq] at *
    omega

@[simp] theorem fits_zero (c : Config) : c.fits 0 = true := by
  unfold Config.fits fitsBits
  split <;> simp

theorem wf_iff (c : Config) (m : List Nat) :
    Memory.wf c m = true ↔ c.fitsLength m.length = true ∧ ∀ v ∈ m, c.fits v = true := by
  simp [Memory.wf, Config.fitsImage]

theorem wf_nil (c : Config) : Memory.wf c [] = true := by
  simp only [wf_iff, List.length_nil, List.not_mem_nil, false_imp_iff, implies_true, and_true]
  unfold Config.fitsLength
  split <;> simp

theorem wf_set {c : Config} {m : List Nat} (a : Nat) {v : Nat} (hm : Memory.wf c m = true)
    (hv : c.fits v = true) : Memory.wf c (m.set a v) = true := by
  rw [wf_iff] at *
  refine ⟨by simpa using hm.1, fun u hu => ?_⟩
  rcases List.mem_or_eq_of_mem_set hu with h | rfl
  · exact hm.2 u h
  · exact hv

theorem wf_store {s : State} (a : Nat) {v : Nat} (hm : Memory.wf s.cfg s.mem = true)
    (hv : s.cfg.fits v = true) : Memory.wf (store s a v).cfg (store s a v).mem = true :=
  wf_set a hm hv

theorem wf_memWrite {s t : State} {a : Nat} {v : Nat} (h : memWrite s a v = some t)
    (hm : Memory.wf s.cfg s.mem = true) (hv : s.cfg.fits v = true) : Memory.wf t.cfg t.mem = true := by
  obtain ⟨-, h'⟩ | ⟨-, h'⟩ := memWrite_cases s a v
  · rw [h'] at h
    cases h
    exact wf_store a hm hv
  · simp [h'] at h

theorem wf_patchCell {s : State} (a : Nat) {v : Nat} (hm : Memory.wf s.cfg s.mem = true)
    (hv : s.cfg.fits v = true) : Memory.wf (patchCell s a v).cfg (patchCell s a v).mem = true := by
  obtain ⟨-, h'⟩ | ⟨-, h'⟩ := memWrite_cases s a v <;> simp only [patchCell, h']
  · exact wf_store a hm hv
  · exact hm

theorem wf_restore {s : State} (hb : Memory.wf s.cfg s.base = true) :
    Memory.wf (restore s).cfg (restore s).mem = true := hb

/-- Placing cells keeps every cell in the domain; the length of the result is the caller's concern. -/
theorem wf_placeCells {c : Config} {m cells : List Nat} {a : Nat} (hm : Memory.wf c m = true)
    (hc : ∀ v ∈ cells, c.fits v = true) (hl : c.fitsLength (placeCells m a cells).length = true) :
    Memory.wf c (placeCells m a cells) = true := by
  rw [wf_iff] at *
  refine ⟨hl, fun v hv => ?_⟩
  simp only [placeCells, List.mem_append] at hv
  rcases hv with ((h | h) | h) | h
  · exact hm.2 v (List.mem_of_mem_take h)
  · rw [List.eq_of_mem_replicate h]
    exact fits_zero c
  · exact hc v h
  · exact hm.2 v (List.mem_of_mem_drop h)

theorem wf_reset : Memory.wf State.reset.cfg State.reset.mem = true := by decide

end Sys2Proof.Machine
end

