-- ==== Sys2Proof/Laws/Ops.lean ====
section
/-! SUPPORT. For each shared operation, once, everything it can do. -/

namespace Sys2Proof.Machine

@[simp] theorem whenRunning_next_iff (s n t : State) :
    whenRunning s n = .next t ↔ s.runState = .running ∧ n = t := by
  unfold whenRunning
  cases h : s.runState <;> simp

theorem whenRunning_of_running {s : State} (n : State) (h : s.runState = .running) : whenRunning s n = .next n := by
  simp [whenRunning, h]

/-! ## What the model's Boolean tests say -/

@[simp] theorem patchAllowed_eq_true_iff (s : State) (v : Nat) :
    patchAllowed s v = true ↔ s.runState = .running ∧ s.cfg.fits v = true := by
  simp [patchAllowed]

@[simp] theorem patchAllowed_eq_false_iff (s : State) (v : Nat) :
    patchAllowed s v = false ↔ s.runState ≠ .running ∨ s.cfg.fits v = false := by
  rw [← Bool.not_eq_true, patchAllowed_eq_true_iff, not_and_or, Bool.not_eq_true]

@[simp] theorem candidateMatches_eq_true_iff (s : State) :
    candidateMatches s = true ↔ s.runState = .halted ∧ memRead s resultAddr = some s.target := by
  simp [candidateMatches]

@[simp] theorem candidateMatches_eq_false_iff (s : State) :
    candidateMatches s = false ↔ ¬ (s.runState = .halted ∧ memRead s resultAddr = some s.target) := by
  rw [← Bool.not_eq_true, candidateMatches_eq_true_iff]

@[simp] theorem rangeEmpty_eq_true_iff (s : State) :
    rangeEmpty s = true ↔ s.nounHi < s.nounLo ∨ s.verbHi < s.verbLo := by
  simp [rangeEmpty]

@[simp] theorem rangeEmpty_eq_false_iff (s : State) :
    rangeEmpty s = false ↔ s.nounLo ≤ s.nounHi ∧ s.verbLo ≤ s.verbHi := by
  simp [rangeEmpty]

/-- The core is quiescent exactly when no RUN is in progress and the search controller is in `Idle` or `Done`. -/
theorem quiescent_iff (s : State) :
    quiescent s = true ↔ s.runActive = false ∧ (s.phase = .idle ∨ s.phase = .done) := by
  unfold quiescent
  cases s.runActive <;> cases s.phase <;> simp

/-- The sequencer is started exactly while a RUN is in progress or the search controller is in `Exec`. -/
theorem sequencerStarted_iff (s : State) :
    sequencerStarted s = true ↔ s.runActive = true ∨ ∃ n v, s.phase = .exec n v := by
  unfold sequencerStarted
  cases s.runActive <;> cases s.phase <;> simp

/-! ## What the parameters allow, in the words of the statements -/

theorem fits_eq_false_iff (c : Config) (v : Nat) : c.fits v = false ↔ tooLarge c v := by
  unfold Config.fits tooLarge fitsBits
  cases c.wordBits <;> simp

theorem fits_eq_true_iff (c : Config) (v : Nat) : c.fits v = true ↔ ¬ tooLarge c v := by
  rw [← fits_eq_false_iff, Bool.not_eq_false]

theorem fitsImage_eq_false_iff (c : Config) (image : List Nat) :
    c.fitsImage image = false ↔ tooLong c image.length ∨ ∃ v ∈ image, tooLarge c v := by
  have hl : ∀ n, c.fitsLength n = false ↔ tooLong c n := by
    intro n
    unfold Config.fitsLength tooLong
    cases c.memMax <;> simp
  simp only [Config.fitsImage, Bool.and_eq_false_iff, hl, List.all_eq_false, Bool.not_eq_true, fits_eq_false_iff]

/-- Everything the ALU can answer (40_alu.md rule R120). -/
theorem alu_cases (c : Config) (op : AluOp) (x y : Nat) :
    (c.fits (aluExact op x y) = true ∧ alu c op x y = some (aluExact op x y)) ∨
    (c.fits (aluExact op x y) = false ∧ alu c op x y = none) := by
  cases h : c.fits (aluExact op x y) <;> simp [alu, overflows, h]

/-- Everything ADD and MUL can do (40_alu.md rules R121 and R122). -/
theorem arithNext_cases (op : AluOp) (a b d : Nat) (s : State) :
    (s.mem.length ≤ a ∧ arithNext op a b d s = raise s .addrOOB a .aPos) ∨
    (a < s.mem.length ∧ s.mem.length ≤ b ∧ arithNext op a b d s = raise s .addrOOB b .bPos) ∨
    (a < s.mem.length ∧ b < s.mem.length ∧ s.mem.length ≤ d ∧
      arithNext op a b d s = raise s .addrOOB d .destPos) ∨
    (∃ x y, memRead s a = some x ∧ memRead s b = some y ∧ d < s.mem.length ∧
      s.cfg.fits (aluExact op x y) = false ∧ arithNext op a b d s = raise s .arithOverflow 0 .none) ∨
    (∃ x y, memRead s a = some x ∧ memRead s b = some y ∧ d < s.mem.length ∧
      s.cfg.fits (aluExact op x y) = true ∧ arithNext op a b d s = advance (store s d (aluExact op x y))) := by
  unfold arithNext readOperand destInBounds writeDest effectiveAddress
  rcases ha : memRead s a with _ | x
  · exact .inl ⟨(memRead_eq_none_iff s a).mp ha, rfl⟩
  have hla := inBounds_of_memRead ha
  rcases hb : memRead s b with _ | y
  · exact .inr (.inl ⟨hla, (memRead_eq_none_iff s b).mp hb, rfl⟩)
  have hlb := inBounds_of_memRead hb
  by_cases hd : d < s.mem.length
  · obtain ⟨hf, h⟩ | ⟨hf, h⟩ := alu_cases s.cfg op x y
    · exact .inr (.inr (.inr (.inr ⟨x, y, rfl, rfl, hd, hf, by simp [hd, h]⟩)))
    · exact .inr (.inr (.inr (.inl ⟨x, y, rfl, rfl, hd, hf, by simp [hd, h]⟩)))
  · exact .inr (.inr (.inl ⟨hla, hlb, by omega, by simp [hd]⟩))

/-- Everything a PATCH whose precondition holds can do (42_host_commands.md rules R162 and R163). -/
theorem patchCell_cases (s : State) (p : Nat) (v : Nat) :
    (p < s.mem.length ∧ patchCell s p v = store s p v) ∨
    (s.mem.length ≤ p ∧ patchCell s p v = raise s .patchOOB p .none) := by
  obtain ⟨h, h'⟩ | ⟨h, h'⟩ := memWrite_cases s p v
  · exact .inl ⟨h, by simp [patchCell, h']⟩
  · exact .inr ⟨h, by simp [patchCell, h']⟩

/-- Everything one PATCH of a candidate can do (43_search.md rule R185, log entry 9). -/
theorem patchStep_cases (p : Nat) (v : Nat) (s : State) :
    (s.runState = .running ∧ s.cfg.fits v = true ∧ p < s.mem.length ∧ patchStep p v s = store s p v) ∨
    (s.runState = .running ∧ s.mem.length ≤ p ∧ patchStep p v s = raise s .patchOOB p .none) ∨
    (s.runState = .running ∧ s.cfg.fits v = false ∧ p < s.mem.length ∧ patchStep p v s = s) ∨
    (s.runState ≠ .running ∧ patchStep p v s = s) := by
  cases hr : s.runState with
  | halted => exact .inr (.inr (.inr ⟨by simp, by simp only [patchStep, hr]⟩))
  | faulted => exact .inr (.inr (.inr ⟨by simp, by simp only [patchStep, hr]⟩))
  | running =>
    obtain ⟨h, h'⟩ | ⟨h, h'⟩ := patchCell_cases s p v
    · cases hf : s.cfg.fits v
      · exact .inr (.inr (.inl ⟨rfl, rfl, h, by simp [patchStep, hr, h, hf]⟩))
      · exact .inl ⟨rfl, rfl, h, by simp [patchStep, hr, hf, h']⟩
    · exact .inr (.inl ⟨rfl, h, by simp [patchStep, hr, Nat.not_lt.mpr h, h']⟩)

/-- A patch outside `Running` is not made: the second patch of a candidate whose first one faulted. -/
theorem patchStep_of_not_running (p v : Nat) {s : State} (h : s.runState ≠ .running) : patchStep p v s = s := by
  obtain ⟨hr, -⟩ | ⟨hr, -⟩ | ⟨hr, -⟩ | ⟨-, e⟩ := patchStep_cases p v s
  · exact absurd hr h
  · exact absurd hr h
  · exact absurd hr h
  · exact e

/-- A step of the sequencer in `Running` has a next state: the run's, or a fault's (41_halt_and_sequencing.md rule R143). -/
theorem sequencerStep_cases {s : State} (h : s.runState = .running) :
    (∃ n, decode s.mem s.ip = .shortWindow n ∧ sequencerStep s = .next (raise s .decodeShortWindow n .none)) ∨
    (∃ op, decode s.mem s.ip = .badOpcode op ∧ sequencerStep s = .next (raise s .decodeBadOpcode op .none)) ∨
    (decode s.mem s.ip = .instr .hlt ∧ sequencerStep s = .next (halt s)) ∨
    (∃ a b d, decode s.mem s.ip = .instr (.add a b d) ∧ sequencerStep s = .next (arithNext .add a b d s)) ∨
    (∃ a b d, decode s.mem s.ip = .instr (.mul a b d) ∧ sequencerStep s = .next (arithNext .mul a b d s)) := by
  unfold sequencerStep
  rcases hd : decode s.mem s.ip with i | op | n
  · rcases i with ⟨a, b, d⟩ | ⟨a, b, d⟩ | _
    · exact .inr (.inr (.inr (.inl ⟨a, b, d, rfl, whenRunning_of_running _ h⟩)))
    · exact .inr (.inr (.inr (.inr ⟨a, b, d, rfl, whenRunning_of_running _ h⟩)))
    · exact .inr (.inr (.inl ⟨rfl, whenRunning_of_running _ h⟩))
  · exact .inr (.inl ⟨op, rfl, rfl⟩)
  · exact .inl ⟨n, rfl, rfl⟩

/-- Everything a step of the machine can be (00_scope.md rule R11, 43_search.md rule R197). -/
theorem step_cases (s : State) :
    (sequencerStarted s = true ∧ s.runState = .running ∧ step s = sequencerStep s) ∨
    (s.runActive = true ∧ s.runState ≠ .running ∧ step s = .next (finishRun s)) ∨
    (s.runActive = false ∧ ∃ n v, s.phase = .load n v ∧ step s = .next (loadPhase n v s)) ∨
    (s.runActive = false ∧ ∃ n v, s.phase = .exec n v ∧ s.runState ≠ .running ∧
      step s = .next (toPhase s (.check n v))) ∨
    (s.runActive = false ∧ ∃ n v, s.phase = .check n v ∧ step s = .next (checkPhase n v s)) ∨
    (quiescent s = true ∧ step s = .next (hostPhase s)) := by
  unfold step coreStep sequencerStarted quiescent
  rcases ha : s.runActive
  · rcases hp : s.phase with _ | ⟨n, v⟩ | ⟨n, v⟩ | ⟨n, v⟩ | _
    · exact .inr (.inr (.inr (.inr (.inr ⟨rfl, rfl⟩))))
    · exact .inr (.inr (.inl ⟨rfl, n, v, rfl, rfl⟩))
    · by_cases hr : s.runState = .running
      · exact .inl ⟨rfl, hr, by simp [hr]⟩
      · exact .inr (.inr (.inr (.inl ⟨rfl, n, v, rfl, hr, by simp [hr]⟩)))
    · exact .inr (.inr (.inr (.inr (.inl ⟨rfl, n, v, rfl, rfl⟩))))
    · exact .inr (.inr (.inr (.inr (.inr ⟨rfl, rfl⟩))))
  · by_cases hr : s.runState = .running
    · exact .inl ⟨rfl, hr, by simp [hr]⟩
    · exact .inr (.inl ⟨rfl, hr, by simp [hr]⟩)

/-- A quiescent core accepts the host's next command. -/
theorem step_of_quiescent {s : State} (h : quiescent s = true) : step s = .next (hostPhase s) := by
  unfold step coreStep
  unfold quiescent at h
  rcases ha : s.runActive <;> rcases hp : s.phase <;> simp_all

/-- A started sequencer takes an instruction step while `Running`. -/
theorem step_of_started {s : State} (h : sequencerStarted s = true) (hr : s.runState = .running) :
    step s = sequencerStep s := by
  unfold step coreStep
  unfold sequencerStarted at h
  rcases ha : s.runActive <;> rcases hp : s.phase <;> simp_all

/-! ## Runs of the machine -/

/-- A run of one step and more, when the first step has a next state. -/
theorem run_succ_of_next {s t : State} (k : Nat) (h : step s = .next t) :
    Sys2Proof.core.run (k + 1) s = Sys2Proof.core.run k t := by
  have h' : Sys2Proof.core.step s = .next t := h
  simp [Host.Core.run, h']

/-- Two runs, one after the other. -/
theorem run_trans (j k : Nat) {s t u : State} (h : Sys2Proof.core.run j s = .next t)
    (h' : Sys2Proof.core.run k t = .next u) : Sys2Proof.core.run (j + k) s = .next u := by
  induction j generalizing s with
  | zero =>
    cases h
    simpa using h'
  | succ j ih =>
    rcases hs : step s with v | r | r
    · rw [run_succ_of_next j hs] at h
      rw [Nat.succ_add, run_succ_of_next (j + k) hs]
      exact ih h
    · have hs' : Sys2Proof.core.step s = .fault r := hs
      simp [Host.Core.run, hs'] at h
    · have hs' : Sys2Proof.core.step s = .refused r := hs
      simp [Host.Core.run, hs'] at h

end Sys2Proof.Machine
end

