-- ==== Sys2Proof/Laws/Sequencer.lean ====
section
/-! SUPPORT. What a step of the sequencer and a run of steps can do, and what they leave. -/

namespace Sys2Proof.Machine

/-- ADD and MUL raise a fault or store their result. -/
theorem arithNext_raise_or_store (op : AluOp) (a b d : Nat) (s : State) :
    (∃ cause info slot, arithNext op a b d s = raise s cause info slot) ∨
    (∃ x y, memRead s a = some x ∧ memRead s b = some y ∧ d < s.mem.length ∧
      s.cfg.fits (aluExact op x y) = true ∧ arithNext op a b d s = advance (store s d (aluExact op x y))) := by
  obtain ⟨-, e⟩ | ⟨-, -, e⟩ | ⟨-, -, -, e⟩ | ⟨x, y, -, -, -, -, e⟩ | h := arithNext_cases op a b d s
  · exact .inl ⟨_, _, _, e⟩
  · exact .inl ⟨_, _, _, e⟩
  · exact .inl ⟨_, _, _, e⟩
  · exact .inl ⟨_, _, _, e⟩
  · exact .inr h

/-- What the next state of a step in `Running` can be: a fault's entry, the effect of HLT, or a result stored. -/
theorem sequencerStep_next_cases {s t : State} (hr : s.runState = .running) (h : sequencerStep s = .next t) :
    (∃ cause info slot, t = raise s cause info slot) ∨
    (t = halt s ∧ decode s.mem s.ip = .instr .hlt) ∨
    (∃ op a b d x y, memRead s a = some x ∧ memRead s b = some y ∧ d < s.mem.length ∧
      s.cfg.fits (aluExact op x y) = true ∧ t = advance (store s d (aluExact op x y)) ∧
      decode s.mem s.ip = .instr (match op with
        | .add => .add a b d
        | .mul => .mul a b d)) := by
  obtain ⟨n, -, e⟩ | ⟨n, -, e⟩ | ⟨hd, e⟩ | ⟨a, b, d, hd, e⟩ | ⟨a, b, d, hd, e⟩ := sequencerStep_cases hr <;>
    rw [e] at h <;> cases h
  · exact .inl ⟨_, _, _, rfl⟩
  · exact .inl ⟨_, _, _, rfl⟩
  · exact .inr (.inl ⟨rfl, hd⟩)
  · obtain h | ⟨x, y, hx, hy, hl, hf, e⟩ := arithNext_raise_or_store .add a b d s
    · exact .inl h
    · exact .inr (.inr ⟨.add, a, b, d, x, y, hx, hy, hl, hf, e, hd⟩)
  · obtain h | ⟨x, y, hx, hy, hl, hf, e⟩ := arithNext_raise_or_store .mul a b d s
    · exact .inl h
    · exact .inr (.inr ⟨.mul, a, b, d, x, y, hx, hy, hl, hf, e, hd⟩)

/-- A step of the sequencer in `Running` has a next state. -/
theorem sequencerStep_total {s : State} (hr : s.runState = .running) : ∃ t, sequencerStep s = .next t := by
  obtain ⟨n, -, e⟩ | ⟨n, -, e⟩ | ⟨-, e⟩ | ⟨a, b, d, -, e⟩ | ⟨a, b, d, -, e⟩ := sequencerStep_cases hr <;> exact ⟨_, e⟩

/-- A step of the sequencer keeps the length of the memory. -/
theorem sequencerStep_length {s t : State} (hr : s.runState = .running) (h : sequencerStep s = .next t) :
    t.mem.length = s.mem.length := by
  obtain ⟨c, n, k, rfl⟩ | ⟨rfl, -⟩ | ⟨op, a, b, d, x, y, -, -, -, -, rfl, -⟩ := sequencerStep_next_cases hr h <;> simp

/-- A step of the sequencer writes no field outside the Machine. -/
theorem sequencerStep_frame {s t : State} (hr : s.runState = .running) (h : sequencerStep s = .next t) :
    searcherUnchanged s t := by
  obtain ⟨c, n, k, rfl⟩ | ⟨rfl, -⟩ | ⟨op, a, b, d, x, y, -, -, -, -, rfl, -⟩ := sequencerStep_next_cases hr h <;>
    simp [searcherUnchanged, boundsUnchanged, searchUnchanged]

theorem searcherUnchanged_refl (s : State) : searcherUnchanged s s := by
  simp [searcherUnchanged, boundsUnchanged, searchUnchanged]

theorem searcherUnchanged_trans {s t u : State} (h : searcherUnchanged s t) (h' : searcherUnchanged t u) :
    searcherUnchanged s u := by
  simp_all [searcherUnchanged, boundsUnchanged, searchUnchanged]

/-- One step of a run, in `Running`. -/
theorem runFuel_succ_of_next {s t : State} (k : Nat) (hr : s.runState = .running) (h : sequencerStep s = .next t) :
    runFuel (k + 1) s = runFuel k t := by
  simp [runFuel, hr, h]

/-- A run takes no step outside `Running`. -/
theorem runFuel_of_not_running {s : State} (k : Nat) (hr : s.runState ≠ .running) : runFuel k s = s := by
  cases k <;> simp [runFuel, hr]

/-- A run writes no field outside the Machine and keeps the length of the memory. -/
theorem runFuel_frame (k : Nat) (s : State) :
    searcherUnchanged s (runFuel k s) ∧ (runFuel k s).mem.length = s.mem.length := by
  induction k generalizing s with
  | zero => exact ⟨searcherUnchanged_refl s, rfl⟩
  | succ k ih =>
    by_cases hr : s.runState = .running
    · obtain ⟨t, ht⟩ := sequencerStep_total hr
      rw [runFuel_succ_of_next k hr ht]
      exact ⟨searcherUnchanged_trans (sequencerStep_frame hr ht) (ih t).1, (ih t).2.trans (sequencerStep_length hr ht)⟩
    · rw [runFuel_of_not_running _ hr]
      exact ⟨searcherUnchanged_refl s, rfl⟩

/-- A whole run writes no field outside the Machine and keeps the length of the memory. -/
theorem runToEnd_frame (s : State) :
    searcherUnchanged s (runToEnd s) ∧ (runToEnd s).mem.length = s.mem.length :=
  runFuel_frame _ s

end Sys2Proof.Machine
end

