-- ==== Sys2Proof/Laws/HostCommands.lean ====
section
/-! SUPPORT. What the acceptance of a command, the setting up of a candidate and its check can do, and with these everything
the next state of a step can be. -/

namespace Sys2Proof.Machine

/-- A step that accepts the host's next command. -/
theorem step_of_nextCommand {s : State} {c : Command} {rest : List Command} (h : nextCommand s c rest) :
    step s = .next (accept c (withPending s rest)) := by
  rw [step_of_quiescent h.1, hostPhase, h.2]

/-- Everything a candidate's setting up can do: the pair is named, and the Machine is fresh with both patches in bounds or
stands at PatchOOB. -/
theorem setUpCandidate_cases (n v : Nat) (s : State) : ∃ mem runState fcause finfo,
    setUpCandidate n v s = { s with noun := n, verb := v, mem := mem, ip := 0, runState := runState,
                                    fcause := fcause, finfo := finfo, fslot := .none } ∧
    mem.length = s.base.length ∧
    (runState = .running ∧ fcause = .none ∧ finfo = 0 ∧ 3 ≤ mem.length ∨
      runState = .faulted ∧ fcause = .patchOOB ∧ mem.length < 3) ∧
    (Memory.wf s.cfg s.base = true → Memory.wf s.cfg mem = true) := by
  unfold setUpCandidate patchCandidate
  generalize hs : restore { s with noun := n, verb := v } = r
  -- the second patch, from a memory of the baseline's length in `Running`
  have second : ∀ m : List Nat, m.length = s.base.length → (Memory.wf s.cfg s.base = true → Memory.wf s.cfg m = true) →
      ∃ mem runState fcause finfo,
        patchStep verbAddr v { r with mem := m } = { s with noun := n, verb := v, mem := mem, ip := 0, runState := runState,
                                                            fcause := fcause, finfo := finfo, fslot := .none } ∧
        mem.length = s.base.length ∧
        (runState = .running ∧ fcause = .none ∧ finfo = 0 ∧ 3 ≤ mem.length ∨
          runState = .faulted ∧ fcause = .patchOOB ∧ mem.length < 3) ∧
        (Memory.wf s.cfg s.base = true → Memory.wf s.cfg mem = true) := by
    subst hs
    intro m hm hw
    obtain ⟨-, hf, hl, e⟩ | ⟨-, hl, e⟩ | ⟨-, -, hl, e⟩ | ⟨hr, -⟩ :=
      patchStep_cases verbAddr v { restore { s with noun := n, verb := v } with mem := m }
    · rw [e]
      exact ⟨m.set verbAddr v, _, _, _, rfl, by simpa using hm,
        .inl ⟨rfl, rfl, rfl, by rw [List.length_set]; exact hl⟩, fun h => wf_set _ (hw h) hf⟩
    · rw [e]
      exact ⟨m, _, _, _, rfl, hm, .inr ⟨rfl, rfl, Nat.lt_succ_of_le hl⟩, hw⟩
    · rw [e]
      exact ⟨m, _, _, _, rfl, hm, .inl ⟨rfl, rfl, rfl, hl⟩, hw⟩
    · exact absurd rfl hr
  obtain ⟨-, hf, -, e⟩ | ⟨-, hl, e⟩ | ⟨-, -, -, e⟩ | ⟨hr, -⟩ := patchStep_cases nounAddr n r
  · rw [e]
    subst hs
    exact second (s.base.set nounAddr n) (by simp) (fun h => wf_set _ h hf)
  · rw [e, patchStep_of_not_running _ _ (by simp)]
    subst hs
    exact ⟨s.base, _, _, _, rfl, rfl, .inr ⟨rfl, rfl, Nat.lt_of_le_of_lt hl (by decide)⟩, fun h => h⟩
  · rw [e]
    subst hs
    exact second s.base rfl (fun h => h)
  · subst hs
    exact absurd rfl hr

/-- Everything the check of a candidate can do (43_search.md rule R197, the rows of `Check`). -/
theorem checkPhase_cases (n v : Nat) (s : State) :
    (candidateMatches s = true ∧ checkPhase n v s = { s with
      answer := composite n v, sstate := .found, phase := .done, response := some (.found n v (composite n v)) }) ∨
    (candidateMatches s = false ∧ ∃ f, f = (if s.runState = .faulted then s.sfcnt + 1 else s.sfcnt) ∧
      ((v < s.verbHi ∧ checkPhase n v s = { s with sfcnt := f, phase := .load n (v + 1) }) ∨
       (s.verbHi ≤ v ∧ n < s.nounHi ∧ checkPhase n v s = { s with sfcnt := f, phase := .load (n + 1) s.verbLo }) ∨
       (s.verbHi ≤ v ∧ s.nounHi ≤ n ∧
         checkPhase n v s = { s with sfcnt := f, sstate := .notFound, phase := .done, response := some .notFound }))) := by
  unfold checkPhase
  cases h : candidateMatches s
  · refine .inr ⟨rfl, _, rfl, ?_⟩
    by_cases h1 : v < s.verbHi
    · exact .inl ⟨h1, by simp [h1, countFault, toPhase]⟩
    · by_cases h2 : n < s.nounHi
      · exact .inr (.inl ⟨by omega, h2, by simp [h1, h2, countFault, toPhase]⟩)
      · exact .inr (.inr ⟨by omega, by omega, by simp [h1, h2, countFault, finishNotFound, respond]⟩)
  · exact .inl ⟨rfl, by simp [finishFound, respond]⟩

/-- Everything an accepted SEARCH can do at once (43_search.md rule R197, the rows of `Idle`). -/
theorem startSearch_cases (target : Nat) (s : State) :
    (rangeEmpty s = true ∧ startSearch target s = { s with
      target := target, sstate := .notFound, answer := 0, sfcnt := 0, phase := .done, response := some .notFound }) ∨
    (rangeEmpty s = false ∧ startSearch target s = { s with
      target := target, sstate := .searching, answer := 0, sfcnt := 0, phase := .load s.nounLo s.verbLo,
      response := none }) := by
  cases h : rangeEmpty s <;> simp [startSearch, h, finishNotFound, beginSearch, respond, toPhase]

/-- Everything the acceptance of a command can do: only a response, or the effect of a command whose precondition holds. -/
theorem accept_cases (c : Command) (s : State) :
    (∃ r, accept c s = respond s r) ∨
    (∃ image, c = .load image ∧ s.cfg.fitsImage image = true ∧ accept c s = respond (loadImage image s) .done) ∨
    (∃ p v, c = .patch p v ∧ patchAllowed s v = true ∧
      accept c s = respond (patchCell s p v) (if inBounds s p then .done else .faulted)) ∨
    (c = .run ∧ s.runState = .running ∧ accept c s = { s with runActive := true, response := none }) ∨
    (∃ nlo nhi vlo vhi, c = .setRange nlo nhi vlo vhi ∧ s.cfg.fits nlo = true ∧ s.cfg.fits nhi = true ∧
      s.cfg.fits vlo = true ∧ s.cfg.fits vhi = true ∧
      accept c s = respond { s with nounLo := nlo, nounHi := nhi, verbLo := vlo, verbHi := vhi } .done) ∨
    (c = .reset ∧ accept c s = acceptReset s) ∨
    (∃ target, c = .search target ∧ s.cfg.fits target = true ∧ accept c s = startSearch target s) := by
  rcases c with image | ⟨p, v⟩ | _ | _ | a | r | ⟨nlo, nhi, vlo, vhi⟩ | _ | target
  · cases h : s.cfg.fitsImage image
    · exact .inl ⟨.refused, by simp [accept, acceptLoad, h, refuse]⟩
    · exact .inr (.inl ⟨image, rfl, h, by simp [accept, acceptLoad, h]⟩)
  · cases h : patchAllowed s v
    · refine .inl ⟨.refused, ?_⟩
      simp only [accept, acceptPatch, h]
      rfl
    · refine .inr (.inr (.inl ⟨p, v, rfl, h, ?_⟩))
      simp only [accept, acceptPatch, h, if_true]
  · cases h : s.runState
    · exact .inr (.inr (.inr (.inl ⟨rfl, rfl, by simp [accept, acceptRun, h]⟩)))
    · exact .inl ⟨.refused, by simp [accept, acceptRun, h, refuse]⟩
    · exact .inl ⟨.refused, by simp [accept, acceptRun, h, refuse]⟩
  · exact .inl ⟨_, rfl⟩
  · cases h : memRead s a with
    | none => exact .inl ⟨.refused, by simp [accept, acceptPeek, h, refuse]⟩
    | some x => exact .inl ⟨.value x, by simp [accept, acceptPeek, h]⟩
  · exact .inl ⟨_, rfl⟩
  · cases h : (s.cfg.fits nlo && s.cfg.fits nhi && s.cfg.fits vlo && s.cfg.fits vhi)
    · exact .inl ⟨.refused, by simp only [accept, acceptSetRange, h]; rfl⟩
    · simp only [Bool.and_eq_true] at h
      exact .inr (.inr (.inr (.inr (.inl
        ⟨nlo, nhi, vlo, vhi, rfl, h.1.1.1, h.1.1.2, h.1.2, h.2, by simp [accept, acceptSetRange, h]⟩))))
  · exact .inr (.inr (.inr (.inr (.inr (.inl ⟨rfl, rfl⟩)))))
  · cases h : s.cfg.fits target
    · exact .inl ⟨.refused, by simp [accept, acceptSearch, h, refuse]⟩
    · exact .inr (.inr (.inr (.inr (.inr (.inr ⟨target, rfl, h, by simp [accept, acceptSearch, h]⟩)))))

/-- Everything the next state of a step can be. -/
theorem step_next_cases {s t : State} (h : step s = .next t) :
    (sequencerStarted s = true ∧ s.runState = .running ∧ sequencerStep s = .next t) ∨
    (s.runActive = true ∧ s.runState ≠ .running ∧ t = finishRun s) ∨
    (s.runActive = false ∧ ∃ n v, s.phase = .load n v ∧ t = loadPhase n v s) ∨
    (s.runActive = false ∧ ∃ n v, s.phase = .exec n v ∧ s.runState ≠ .running ∧ t = toPhase s (.check n v)) ∨
    (s.runActive = false ∧ ∃ n v, s.phase = .check n v ∧ t = checkPhase n v s) ∨
    (quiescent s = true ∧ s.pending = [] ∧ t = s) ∨
    (∃ c rest, nextCommand s c rest ∧ t = accept c (withPending s rest)) := by
  obtain ⟨ha, hr, e⟩ | ⟨ha, hr, e⟩ | ⟨ha, n, v, hp, e⟩ | ⟨ha, n, v, hp, hr, e⟩ | ⟨ha, n, v, hp, e⟩ | ⟨hq, e⟩ := step_cases s <;>
    rw [e] at h
  · exact .inl ⟨ha, hr, h⟩
  all_goals cases h
  · exact .inr (.inl ⟨ha, hr, rfl⟩)
  · exact .inr (.inr (.inl ⟨ha, n, v, hp, rfl⟩))
  · exact .inr (.inr (.inr (.inl ⟨ha, n, v, hp, hr, rfl⟩)))
  · exact .inr (.inr (.inr (.inr (.inl ⟨ha, n, v, hp, rfl⟩))))
  · unfold hostPhase
    rcases hpend : s.pending with _ | ⟨c, rest⟩
    · exact .inr (.inr (.inr (.inr (.inr (.inl ⟨hq, rfl, rfl⟩)))))
    · exact .inr (.inr (.inr (.inr (.inr (.inr ⟨c, rest, ⟨hq, hpend⟩, rfl⟩)))))

end Sys2Proof.Machine
end

