-- ==== Sys2Proof/Laws/PerInstr.lean ====
section
/-! SUPPORT. Statements about an instruction as syntax, one lemma per constructor of `Instr`. -/

namespace Sys2Proof.Laws.EncodedWindow

/-- The encoding has the length of the instruction's window and begins with its opcode cell (30_encoding.md rules R94, R99). -/
def Statement (i : Instr) : Prop := (encode i).length = i.windowCells ∧ (encode i).head? = some i.opcode

theorem add (aPos bPos destPos : Nat) : Statement (.add aPos bPos destPos) := ⟨rfl, rfl⟩

theorem mul (aPos bPos destPos : Nat) : Statement (.mul aPos bPos destPos) := ⟨rfl, rfl⟩

theorem hlt : Statement .hlt := ⟨rfl, rfl⟩

end Sys2Proof.Laws.EncodedWindow
end

