-- ==== Sys2Proof/Tests/Slice0.lean ====
section
/-! SUPPORT. Tests of the model against the vectors of spec/95_test_vectors.md, each a single step, and one witness for the
hypotheses of each statement of `Certificates/Slice0/Obligations.lean`, a witness for each clause. -/

namespace Sys2Proof.Tests

open Sys2Proof.Machine

/-! ## Small states -/

/-- A core with `WORD_BITS = w`, loaded with `mem`, whose RUN is in progress at `ip`. -/
def runOf (w : Option Nat) (mem : List Nat) (ip : Nat) : State :=
  { State.initial { wordBits := w, memMax := none } with mem := mem, base := mem, ip := ip, runActive := true }

/-- A core with `WORD_BITS = w` loaded with `mem`, with no command in progress and the host's command `c` waiting. -/
def hostOf (w : Option Nat) (mem : List Nat) (c : Command) : State :=
  { State.initial { wordBits := w, memMax := none } with mem := mem, base := mem, pending := [c] }

/-- A core in the phase `p` of a search over the nouns and verbs 6 to 7, with the memory `mem` and a baseline `base`. -/
def searchOf (base mem : List Nat) (runState : RunState) (p : Phase) (target : Nat) : State :=
  { State.initial Config.standard with
    mem := mem, base := base, runState := runState, nounLo := 6, nounHi := 7, verbLo := 6, verbHi := 7,
    sstate := .searching, phase := p, target := target, noun := 6, verb := 7 }

/-- The Machine's part of an outcome, with the fault record by its codes. -/
def machineOf : Host.Outcome State Fault Refusal → Option (List Nat × Nat × RunState × Nat × Nat × Nat)
  | .next t => some (t.mem, t.ip, t.runState, t.fcause.code, t.finfo, t.fslot.code)
  | .fault _ => none
  | .refused _ => none

/-- The response after an outcome. -/
def responseOf : Host.Outcome State Fault Refusal → Option Response
  | .next t => t.response
  | .fault _ => none
  | .refused _ => none

/-! ## Well-formed instructions: an ill-formed term for each check -/

theorem test_wf_refuses_add_aPos : (Instr.add 256 0 0).wf { wordBits := some 8, memMax := none } = false := by decide
theorem test_wf_refuses_add_bPos : (Instr.add 0 256 0).wf { wordBits := some 8, memMax := none } = false := by decide
theorem test_wf_refuses_add_destPos : (Instr.add 0 0 256).wf { wordBits := some 8, memMax := none } = false := by decide
theorem test_wf_refuses_mul_aPos : (Instr.mul 256 0 0).wf { wordBits := some 8, memMax := none } = false := by decide
theorem test_wf_refuses_mul_bPos : (Instr.mul 0 256 0).wf { wordBits := some 8, memMax := none } = false := by decide
theorem test_wf_refuses_mul_destPos : (Instr.mul 0 0 256).wf { wordBits := some 8, memMax := none } = false := by decide
theorem test_wf_accepts_largest_fields : (Instr.add 255 255 255).wf { wordBits := some 8, memMax := none } = true := by decide

/-! ## Decode: the cells of 30_encoding.md rules R92, R93 and R107, and the vectors X5, X3, V1, V9, V4 -/

theorem test_decode_add : decodeWindow [1, 9, 10, 3] = .instr (.add 9 10 3) := by decide
theorem test_decode_mul : decodeWindow [2, 4, 4, 5, 99, 0] = .instr (.mul 4 4 5) := by decide
theorem test_decode_hlt : decodeWindow [99] = .instr .hlt := by decide
theorem test_decode_no_mode_digits : decodeWindow [1001, 0, 0, 0, 99] = .badOpcode 1001 := by decide
theorem test_decode_three_cells : decodeWindow [1, 0, 0] = .shortWindow 3 := by decide
theorem test_table_word_add :
    decodeTableWord 256 (1 + 9 * 2 ^ 64 + 10 * 2 ^ 128 + 3 * 2 ^ 192) = some (.add 9 10 3) := by decide
theorem test_table_word_mul : decodeTableWord 8 2 = some (.mul 0 0 0) := by decide
theorem test_table_word_hlt : decodeTableWord 8 99 = some .hlt := by decide
theorem test_table_word_illegal : decodeTableWord 8 98 = none := by decide

/-! ## Instructions, one step each -/

/-- Vector V27: ADD overwrites its own `a_pos` cell after using it. -/
theorem test_add_own_field : machineOf (step (runOf none [1, 1, 1, 1, 99] 0)) = some ([1, 2, 1, 1, 99], 4, .running, 0, 0, 0) := by decide
/-- Vector O2: `200 + 56` does not fit 8 bits and nothing is written. -/
theorem test_add_overflow :
    machineOf (step (runOf (some 8) [1, 5, 6, 0, 99, 200, 56] 0)) = some ([1, 5, 6, 0, 99, 200, 56], 0, .faulted, 4, 0, 0) := by decide
/-- Vector X3: MUL squares the HLT cell read as data. -/
theorem test_mul_squares : machineOf (step (runOf none [2, 4, 4, 5, 99, 0] 0)) = some ([2, 4, 4, 5, 99, 9801], 4, .running, 0, 0, 0) := by decide
/-- Vector V14 with MUL's opcode: `dest_pos = MEM_LEN` is out of bounds and memory does not grow. -/
theorem test_mul_dest_out_of_bounds :
    machineOf (step (runOf none [2, 0, 0, 5, 99] 0)) = some ([2, 0, 0, 5, 99], 0, .faulted, 3, 5, 3) := by decide
/-- Vector V25: the cells after HLT are not read. -/
theorem test_hlt_first : machineOf (step (runOf none [99, 1, 2, 3] 0)) = some ([99, 1, 2, 3], 0, .halted, 0, 0, 0) := by decide
/-- Vector X1, its second step: HLT in the last cell leaves IP at 4. -/
theorem test_hlt_last : machineOf (step (runOf none [2, 0, 0, 0, 99] 4)) = some ([2, 0, 0, 0, 99], 4, .halted, 0, 0, 0) := by decide

/-! ## Decode faults -/

/-- Vector V6: a bad opcode wins over the short window. -/
theorem test_bad_opcode : machineOf (step (runOf none [7] 0)) = some ([7], 0, .faulted, 1, 7, 0) := by decide
/-- Vector V31, its second step: the short window wins over the address 500. -/
theorem test_short_window :
    machineOf (step (runOf none [2, 0, 0, 0, 1, 500] 4)) = some ([2, 0, 0, 0, 1, 500], 4, .faulted, 2, 2, 0) := by decide

/-! ## Host commands and the search, one step each -/

/-- Vector H6: PatchOOB at `position = MEM_LEN`. -/
theorem test_patch_out_of_bounds :
    machineOf (step (hostOf none [1, 0, 0, 0, 99] (.patch 5 7))) = some ([1, 0, 0, 0, 99], 0, .faulted, 5, 5, 0) := by decide
/-- Vector H3: RESULT before the run. -/
theorem test_result_before_run : responseOf (step (hostOf none [1, 0, 0, 0, 99] .result)) = some .invalid := by decide
/-- Vector H8: PEEK out of bounds. -/
theorem test_peek_refused : responseOf (step (hostOf none [7] (.peek 1))) = some .refused := by decide
/-- Vector S8: a search over an empty range. -/
theorem test_search_empty_range :
    responseOf (step { hostOf none [1, 0, 0, 0, 99] (.search 50) with nounLo := 3, nounHi := 2 }) = some .notFound := by decide
/-- Vector S1: the candidate (6, 7) of baseline B1, patched. -/
theorem test_candidate_patched :
    machineOf (step (searchOf [1, 0, 0, 0, 99, 10, 20, 30] [] .faulted (.load 6 7) 50)) =
      some ([1, 6, 7, 0, 99, 10, 20, 30], 0, .running, 0, 0, 0) := by decide
/-- Vector S11: a baseline of two cells. -/
theorem test_candidate_patch_fault :
    machineOf (step (searchOf [1, 0] [] .halted (.load 6 7) 2)) = some ([1, 6], 0, .faulted, 5, 2, 0) := by decide
/-- Vector S12, its last candidate (99, 99), in a build of 6 bits, which can hold neither value. -/
theorem test_candidate_patch_fault_unfit :
    machineOf (step { hostOf (some 6) [] .result with sstate := .searching, phase := .load 99 99 }) =
      some ([], 0, .faulted, 5, 1, 0) := by decide
/-- Vector S1: the match of the candidate (6, 7). -/
theorem test_candidate_found :
    responseOf (step (searchOf [1, 0, 0, 0, 99, 10, 20, 30] [50, 6, 7, 0, 99, 10, 20, 30] .halted (.check 6 7) 50)) =
      some (.found 6 7 607) := by decide

/-! ## Witnesses: the premises of a started step -/

/-- The two premises that every statement about a started step shares hold of every `runOf`, whatever its memory. -/
theorem runOf_started (w : Option Nat) (mem : List Nat) (ip : Nat) :
    sequencerStarted (runOf w mem ip) = true ∧ (runOf w mem ip).runState = .running := ⟨rfl, rfl⟩

/-! ## Witnesses: limits -/

/-- 256 is the least value that 8 bits cannot hold. -/
theorem tooLarge_boundary : tooLarge { wordBits := some 8, memMax := none } 256 ∧ ¬ tooLarge { wordBits := some 8, memMax := none } 255 :=
  ⟨⟨8, rfl, by decide⟩, (fits_eq_true_iff _ _).mp (by decide)⟩

/-- Nothing is too large without a width. -/
theorem not_tooLarge_standard (v : Nat) : ¬ tooLarge { wordBits := none, memMax := none } v :=
  (fits_eq_true_iff _ _).mp rfl

/-- A length of 3 is the least above `MEM_MAX = 2`. -/
theorem tooLong_boundary : tooLong { wordBits := none, memMax := some 2 } 3 ∧ ¬ tooLong { wordBits := none, memMax := some 2 } 2 :=
  ⟨⟨2, rfl, by decide⟩, by rintro ⟨m, hm, h⟩; cases hm; omega⟩

/-! ## Witnesses: encoding and decode -/

theorem witness_OpcodeMapIsComplete :
    (((2 : Nat) = 1 ∨ (2 : Nat) = 2) ∧ ([500, 0] : List Nat).length < 3) ∧ ((1 : Nat) = 1 ∧ ([] : List Nat).length < 3) ∧
    ((100 : Nat) ≠ 1 ∧ (100 : Nat) ≠ 2 ∧ (100 : Nat) ≠ 99) := by decide

theorem witness_DecodeFollowsDispatchAlgorithm :
    ([1, 0, 0, 0] : List Nat).length ≤ 4 ∧ ([7, 0, 0, 0, 99] : List Nat)[4]? = some 99 ∧
    (([1, 0, 0, 0, 2, 0, 0] : List Nat)[4]? = some 2 ∧ ([1, 0, 0, 0, 2, 0, 0] : List Nat).length - 4 < 4) ∧
    (([1, 9, 10, 3] : List Nat)[0]? = some 1 ∧ ([1, 9, 10, 3] : List Nat)[0 + 1]? = some 9 ∧
      ([1, 9, 10, 3] : List Nat)[0 + 2]? = some 10 ∧ ([1, 9, 10, 3] : List Nat)[0 + 3]? = some 3) ∧
    ([98] : List Nat)[0]? = some 98 := by decide

theorem witness_DecodeAgreesWithEncode :
    decode [99, 0, 0, 0, 1, 9, 10, 3] 4 = .instr (.add 9 10 3) ∧ encode (.add 9 10 3) <+: [99, 0, 0, 0, 1, 9, 10, 3].drop 4 := by
  decide

theorem witness_TableWordRoundTrip : ∀ v ∈ encode (.mul (2 ^ 64 - 1) 0 3), v < 2 ^ tableCellBits := by decide

/-! ## Witnesses: the step -/

theorem witness_StepRunsDecodedInstruction :
    sequencerStarted (runOf none [1, 0, 0, 0, 99] 0) = true ∧ (runOf none [1, 0, 0, 0, 99] 0).runState = .running ∧
    decode (runOf none [1, 0, 0, 0, 99] 0).mem (runOf none [1, 0, 0, 0, 99] 0).ip = .instr (.add 0 0 0) := by decide

theorem witness_StepRunsDecodedInstruction_in_search :
    sequencerStarted (searchOf [99, 0, 0] [99, 6, 7] .running (.exec 6 7) 99) = true ∧
    decode (searchOf [99, 0, 0] [99, 6, 7] .running (.exec 6 7) 99).mem 0 = .instr .hlt := by decide

theorem witness_StepFollowsStepAlgorithm :
    sequencerStarted (runOf none [] 0) = true ∧ (runOf none [] 0).runState = .running := by decide

theorem witness_ExecStopsOutsideRunning :
    (searchOf [] [] .faulted .idle 0).runState ≠ .running ∧ (searchOf [] [] .halted .idle 0).runState ≠ .running := by decide

theorem witness_PlacedWordIsRun : decodeTableWord 8 99 = some .hlt ∧ decodeTableWord 8 1 = some (.add 0 0 0) := by decide

/-! ## Witnesses: ADD, MUL and HLT, clause by clause, at the boundary `address = MEM_LEN` -/

theorem witness_AddEffectAndFaults_addresses :
    (runOf none [1, 5, 0, 0, 99] 0).runState = .running ∧
    (runOf none [1, 5, 0, 0, 99] 0).memLen ≤ 5 ∧
    (0 < (runOf none [1, 0, 5, 0, 99] 0).memLen ∧ (runOf none [1, 0, 5, 0, 99] 0).memLen ≤ 5) ∧
    (4 < (runOf none [1, 4, 4, 5, 99] 0).memLen ∧ (runOf none [1, 4, 4, 5, 99] 0).memLen ≤ 5) := by decide

theorem witness_AddEffectAndFaults_overflow :
    (runOf (some 8) [1, 5, 6, 0, 99, 200, 56] 0).runState = .running ∧
    memRead (runOf (some 8) [1, 5, 6, 0, 99, 200, 56] 0) 5 = some 200 ∧
    memRead (runOf (some 8) [1, 5, 6, 0, 99, 200, 56] 0) 6 = some 56 ∧
    0 < (runOf (some 8) [1, 5, 6, 0, 99, 200, 56] 0).memLen ∧
    tooLarge (runOf (some 8) [1, 5, 6, 0, 99, 200, 56] 0).cfg (200 + 56) :=
  ⟨rfl, rfl, rfl, by decide, tooLarge_boundary.1⟩

theorem witness_AddEffectAndFaults_completes :
    (runOf (some 8) [1, 5, 6, 0, 99, 200, 55] 0).runState = .running ∧
    memRead (runOf (some 8) [1, 5, 6, 0, 99, 200, 55] 0) 5 = some 200 ∧
    memRead (runOf (some 8) [1, 5, 6, 0, 99, 200, 55] 0) 6 = some 55 ∧
    0 < (runOf (some 8) [1, 5, 6, 0, 99, 200, 55] 0).memLen ∧
    ¬ tooLarge (runOf (some 8) [1, 5, 6, 0, 99, 200, 55] 0).cfg (200 + 55) :=
  ⟨rfl, rfl, rfl, by decide, tooLarge_boundary.2⟩

theorem witness_AddEffectAndFaults_window :
    sequencerStarted (runOf none [1, 9, 10, 3] 0) = true ∧ (runOf none [1, 9, 10, 3] 0).runState = .running ∧
    memRead (runOf none [1, 9, 10, 3] 0) 0 = some 1 ∧ memRead (runOf none [1, 9, 10, 3] 0) (0 + 1) = some 9 ∧
    memRead (runOf none [1, 9, 10, 3] 0) (0 + 2) = some 10 ∧ memRead (runOf none [1, 9, 10, 3] 0) (0 + 3) = some 3 := by decide

theorem witness_AddEffectAndFaults_short :
    sequencerStarted (runOf none [2, 0, 0, 0, 1, 0, 0] 4) = true ∧ (runOf none [2, 0, 0, 0, 1, 0, 0] 4).runState = .running ∧
    memRead (runOf none [2, 0, 0, 0, 1, 0, 0] 4) 4 = some 1 ∧ (runOf none [2, 0, 0, 0, 1, 0, 0] 4).memLen ≤ 4 + 3 := by decide

theorem witness_MulEffectAndFaults_addresses :
    (runOf none [2, 5, 0, 0, 99] 0).runState = .running ∧
    (runOf none [2, 5, 0, 0, 99] 0).memLen ≤ 5 ∧
    (0 < (runOf none [2, 0, 5, 0, 99] 0).memLen ∧ (runOf none [2, 0, 5, 0, 99] 0).memLen ≤ 5) ∧
    (4 < (runOf none [2, 4, 4, 5, 99] 0).memLen ∧ (runOf none [2, 4, 4, 5, 99] 0).memLen ≤ 5) := by decide

theorem witness_MulEffectAndFaults_overflow :
    (runOf (some 8) [2, 5, 5, 0, 99, 16] 0).runState = .running ∧
    memRead (runOf (some 8) [2, 5, 5, 0, 99, 16] 0) 5 = some 16 ∧
    0 < (runOf (some 8) [2, 5, 5, 0, 99, 16] 0).memLen ∧
    tooLarge (runOf (some 8) [2, 5, 5, 0, 99, 16] 0).cfg (16 * 16) :=
  ⟨rfl, rfl, by decide, tooLarge_boundary.1⟩

theorem witness_MulEffectAndFaults_completes :
    (runOf (some 8) [2, 5, 6, 0, 99, 15, 17] 0).runState = .running ∧
    memRead (runOf (some 8) [2, 5, 6, 0, 99, 15, 17] 0) 5 = some 15 ∧
    memRead (runOf (some 8) [2, 5, 6, 0, 99, 15, 17] 0) 6 = some 17 ∧
    0 < (runOf (some 8) [2, 5, 6, 0, 99, 15, 17] 0).memLen ∧
    ¬ tooLarge (runOf (some 8) [2, 5, 6, 0, 99, 15, 17] 0).cfg (15 * 17) :=
  ⟨rfl, rfl, rfl, by decide, tooLarge_boundary.2⟩

theorem witness_MulEffectAndFaults_window :
    sequencerStarted (runOf none [2, 3, 11, 0] 0) = true ∧ (runOf none [2, 3, 11, 0] 0).runState = .running ∧
    memRead (runOf none [2, 3, 11, 0] 0) 0 = some 2 ∧ memRead (runOf none [2, 3, 11, 0] 0) (0 + 1) = some 3 ∧
    memRead (runOf none [2, 3, 11, 0] 0) (0 + 2) = some 11 ∧ memRead (runOf none [2, 3, 11, 0] 0) (0 + 3) = some 0 := by decide

theorem witness_MulEffectAndFaults_short :
    sequencerStarted (runOf none [2] 0) = true ∧ (runOf none [2] 0).runState = .running ∧
    memRead (runOf none [2] 0) 0 = some 2 ∧ (runOf none [2] 0).memLen ≤ 0 + 3 := by decide

theorem witness_HltEffect :
    sequencerStarted (runOf none [2, 0, 0, 0, 99] 4) = true ∧ (runOf none [2, 0, 0, 0, 99] 4).runState = .running ∧
    memRead (runOf none [2, 0, 0, 0, 99] 4) 4 = some 99 := by decide

theorem witness_InstructionFrame_store :
    exec (.add 0 0 3) (runOf none [1, 0, 0, 3, 99] 0) = .next (advance (store (runOf none [1, 0, 0, 3, 99] 0) 3 2)) ∧
    (advance (store (runOf none [1, 0, 0, 3, 99] 0) 3 2)).runState ≠ .faulted ∧ 4 ≠ effectiveAddress 3 := ⟨rfl, by decide, by decide⟩

theorem witness_InstructionFrame_hlt :
    exec .hlt (runOf none [99] 0) = .next (halt (runOf none [99] 0)) := rfl

theorem witness_OperandOrderIsIrrelevant :
    0 < (runOf none [1, 0, 4, 0, 99] 0).memLen ∧ 4 < (runOf none [1, 0, 4, 0, 99] 0).memLen := by decide

/-- P2 of 95_test_vectors.md section 3 has this shape: the sum 99 written over the next opcode. -/
theorem witness_StoreIsSeenByNextFetch_hlt :
    memRead (runOf none [1, 5, 6, 4, 0, 90, 9] 0) 5 = some 90 ∧ memRead (runOf none [1, 5, 6, 4, 0, 90, 9] 0) 6 = some 9 ∧
    exec (.add 5 6 (0 + 4)) (runOf none [1, 5, 6, 4, 0, 90, 9] 0) =
      .next (advance (store (runOf none [1, 5, 6, 4, 0, 90, 9] 0) 4 99)) ∧
    (advance (store (runOf none [1, 5, 6, 4, 0, 90, 9] 0) 4 99)).runState = .running := ⟨rfl, rfl, rfl, rfl⟩

/-- Vector V33 with MUL: `49 * 2 = 98` written over the next opcode. -/
theorem witness_StoreIsSeenByNextFetch_bad :
    memRead (runOf none [2, 5, 6, 4, 0, 49, 2] 0) 5 = some 49 ∧ memRead (runOf none [2, 5, 6, 4, 0, 49, 2] 0) 6 = some 2 ∧
    exec (.mul 5 6 (0 + 4)) (runOf none [2, 5, 6, 4, 0, 49, 2] 0) =
      .next (advance (store (runOf none [2, 5, 6, 4, 0, 49, 2] 0) 4 98)) ∧
    (advance (store (runOf none [2, 5, 6, 4, 0, 49, 2] 0) 4 98)).runState = .running := ⟨rfl, rfl, rfl, rfl⟩

theorem witness_ProgramCannotObserveSearcher :
    sameMachine (runOf none [99] 0) { runOf none [99] 0 with target := 7, sfcnt := 3, base := [] } ∧
    exec .hlt (runOf none [99] 0) = .next (halt (runOf none [99] 0)) := ⟨⟨rfl, rfl, rfl, rfl, rfl, rfl, rfl⟩, rfl⟩

/-! ## Witnesses: IP, faults and the run -/

theorem witness_IpAdvancesOnlyAfterAddAndMul_running :
    step (runOf none [1, 0, 0, 0, 99] 0) = .next (advance (store (runOf none [1, 0, 0, 0, 99] 0) 0 2)) ∧
    (advance (store (runOf none [1, 0, 0, 0, 99] 0) 0 2)).runState = .running := ⟨rfl, rfl⟩

theorem witness_IpAdvancesOnlyAfterAddAndMul_halted :
    step (runOf none [2, 0, 0, 0, 99] 4) = .next (halt (runOf none [2, 0, 0, 0, 99] 4)) := rfl

/-- Also the witness of FaultIsPrecise, and of the first case of FaultRecordNamesTheCause. -/
theorem witness_FaultIsPrecise :
    step (runOf none [2, 0, 0, 0, 98] 4) = .next (raise (runOf none [2, 0, 0, 0, 98] 4) .decodeBadOpcode 98 .none) := rfl

/-- The second case of FaultRecordNamesTheCause, at `IP = MEM_LEN`. -/
theorem witness_FaultRecordNamesTheCause_short :
    step (runOf none [2, 0, 0, 0] 4) = .next (raise (runOf none [2, 0, 0, 0] 4) .decodeShortWindow 0 .none) := rfl

/-- The third case of FaultRecordNamesTheCause (P5 of 95_test_vectors.md section 3). -/
theorem witness_FaultRecordNamesTheCause_address :
    step (runOf none [2, 0, 0, 0, 2, 0, 9, 0, 99] 4) =
      .next (raise (runOf none [2, 0, 0, 0, 2, 0, 9, 0, 99] 4) .addrOOB 9 .bPos) := rfl

/-- The fourth case of FaultRecordNamesTheCause, and the witness of OverflowOnlyForFiniteWordBits. -/
theorem witness_OverflowOnlyForFiniteWordBits :
    step (runOf (some 8) [2, 5, 5, 0, 99, 16] 0) =
      .next (raise (runOf (some 8) [2, 5, 5, 0, 99, 16] 0) .arithOverflow 0 .none) ∧
    (runOf (some 8) [2, 5, 5, 0, 99, 16] 0).fcause ≠ .arithOverflow := ⟨rfl, by decide⟩

/-- Also the witness of IpHasNoJumps and ParametersNeverChange. -/
theorem witness_StepLimitIsNeverRaised :
    step (runOf none [] 0) = .next (raise (runOf none [] 0) .decodeShortWindow 0 .none) ∧
    (runOf none [] 0).fcause ≠ .stepLimit := ⟨rfl, by decide⟩

/-- The first clause: a LOAD leaves `Faulted`. -/
theorem witness_TerminalStatesAreLeftOnlyByFreshMachine_load :
    ({ hostOf none [7] (.load [99]) with runState := .faulted, fcause := .decodeBadOpcode, finfo := 7 } : State).runState ≠ .running ∧
    step { hostOf none [7] (.load [99]) with runState := .faulted, fcause := .decodeBadOpcode, finfo := 7 } =
      .next { State.reset with mem := [99], base := [99], response := some .done } := ⟨by decide, rfl⟩

/-- The first clause: the restore of a candidate leaves `Faulted`. -/
theorem witness_TerminalStatesAreLeftOnlyByFreshMachine_restore :
    step (searchOf [99, 0, 0] [99, 6, 6] .faulted (.load 6 7) 99) =
      .next (searchOf [99, 0, 0] [99, 6, 7] .running (.exec 6 7) 99) := rfl

/-- The second clause (vector H6's end). -/
theorem witness_TerminalStatesAreLeftOnlyByFreshMachine_refused :
    nextCommand { hostOf none [7] .run with runState := .faulted } .run [] ∧
    nextCommand { hostOf none [7] (.patch 0 1) with runState := .faulted } (.patch 0 1) [] := ⟨⟨rfl, rfl⟩, rfl, rfl⟩

/-- The third clause: a PEEK in `Faulted`. -/
theorem witness_TerminalStatesAreLeftOnlyByFreshMachine_stays :
    step { hostOf none [7] (.peek 0) with runState := .faulted } =
      .next { hostOf none [7] (.peek 0) with runState := .faulted, pending := [], response := some (.value 7) } := rfl

theorem witness_RunEndsWithinBound : sequencerStarted (runOf none [1, 0, 0, 0, 99] 0) = true := by decide

/-! ## Witnesses: the memory controller and the registers -/

theorem witness_MemReadAndMemWriteAreBoundsChecked :
    4 < (runOf none [1, 0, 0, 0, 99] 0).memLen ∧ (runOf none [1, 0, 0, 0, 99] 0).memLen ≤ 5 ∧ (3 : Nat) ≠ 4 := by decide

/-- Also the witness of BaselineIsWrittenOnlyByLoadAndReset. -/
theorem witness_MemoryLengthIsFixedBetweenLoads :
    step (hostOf none [7] (.load [99, 0])) = .next { State.reset with mem := [99, 0], base := [99, 0], response := some .done } ∧
    ({ State.reset with mem := [99, 0], base := [99, 0], response := some .done } : State).memLen ≠ (hostOf none [7] (.load [99, 0])).memLen ∧
    ({ State.reset with mem := [99, 0], base := [99, 0], response := some .done } : State).base ≠ (hostOf none [7] (.load [99, 0])).base :=
  ⟨rfl, by decide, by decide⟩

theorem witness_SearchBoundsAreWrittenOnlyBySetRange :
    step (hostOf none [] (.setRange 5 6 7 8)) =
      .next { State.reset with nounLo := 5, nounHi := 6, verbLo := 7, verbHi := 8, response := some .done } ∧
    ¬ boundsUnchanged (hostOf none [] (.setRange 5 6 7 8))
        { State.reset with nounLo := 5, nounHi := 6, verbLo := 7, verbHi := 8, response := some .done } :=
  ⟨rfl, fun h => absurd h.1 (by decide)⟩

/-! ## Witnesses: the host commands -/

theorem witness_LoadCommand_too_long :
    nextCommand { hostOf none [] (.load [1, 2, 3]) with cfg := { wordBits := none, memMax := some 2 } } (.load [1, 2, 3]) [] ∧
    tooLong { wordBits := none, memMax := some 2 } ([1, 2, 3] : List Nat).length := ⟨⟨rfl, rfl⟩, tooLong_boundary.1⟩

theorem witness_LoadCommand_too_large :
    nextCommand (hostOf (some 8) [] (.load [0, 256])) (.load [0, 256]) [] ∧
    ∃ v ∈ ([0, 256] : List Nat), tooLarge (hostOf (some 8) [] (.load [0, 256])).cfg v :=
  ⟨⟨rfl, rfl⟩, 256, by decide, tooLarge_boundary.1⟩

theorem witness_LoadCommand_accepted :
    nextCommand (hostOf (some 8) [] (.load [255, 255])) (.load [255, 255]) [] ∧
    ¬ tooLong (hostOf (some 8) [] (.load [255, 255])).cfg ([255, 255] : List Nat).length ∧
    ∀ v ∈ ([255, 255] : List Nat), ¬ tooLarge (hostOf (some 8) [] (.load [255, 255])).cfg v := by
  refine ⟨⟨rfl, rfl⟩, ?_, ?_⟩
  · rintro ⟨m, hm, -⟩
    cases hm
  · intro v hv
    simp only [List.mem_cons, List.not_mem_nil, or_false, or_self] at hv
    subst hv
    exact tooLarge_boundary.2

theorem witness_PatchCommand_refused :
    nextCommand { hostOf (some 8) [7] (.patch 0 1) with runState := .halted } (.patch 0 1) [] ∧
    nextCommand (hostOf (some 8) [7] (.patch 0 256)) (.patch 0 256) [] ∧ tooLarge (hostOf (some 8) [7] (.patch 0 256)).cfg 256 :=
  ⟨⟨rfl, rfl⟩, ⟨rfl, rfl⟩, tooLarge_boundary.1⟩

theorem witness_PatchCommand_accepted :
    nextCommand (hostOf (some 8) [1, 0] (.patch 1 255)) (.patch 1 255) [] ∧
    (hostOf (some 8) [1, 0] (.patch 1 255)).runState = .running ∧
    ¬ tooLarge (hostOf (some 8) [1, 0] (.patch 1 255)).cfg 255 ∧ 1 < (hostOf (some 8) [1, 0] (.patch 1 255)).memLen :=
  ⟨⟨rfl, rfl⟩, rfl, tooLarge_boundary.2, by decide⟩

/-- A RUN waits behind the PATCH. -/
theorem witness_PatchCommand_out_of_bounds :
    nextCommand { hostOf (some 8) [1, 0] .run with pending := [.patch 2 255, .run] } (.patch 2 255) [.run] ∧
    ({ hostOf (some 8) [1, 0] .run with pending := [.patch 2 255, .run] } : State).runState = .running ∧
    ¬ tooLarge (hostOf (some 8) [1, 0] .run).cfg 255 ∧
    ({ hostOf (some 8) [1, 0] .run with pending := [.patch 2 255, .run] } : State).memLen ≤ 2 :=
  ⟨⟨rfl, rfl⟩, rfl, tooLarge_boundary.2, by decide⟩

theorem witness_RunCommandReachesItsEnd :
    nextCommand { hostOf none [99] .run with runState := .halted } .run [] ∧
    nextCommand (hostOf none [99] .run) .run [] ∧ (hostOf none [99] .run).runState = .running :=
  ⟨⟨rfl, rfl⟩, ⟨rfl, rfl⟩, rfl⟩

theorem witness_ResultCommand :
    nextCommand { hostOf none [99] .result with runState := .halted } .result [] ∧
    memRead { hostOf none [99] .result with runState := .halted } 0 = some 99 ∧
    nextCommand (hostOf none [99] .result) .result [] ∧ (hostOf none [99] .result).runState ≠ .halted :=
  ⟨⟨rfl, rfl⟩, rfl, ⟨rfl, rfl⟩, by decide⟩

/-- The candidate (6, 7) of `[99, 0, 0]` has matched the target 99. -/
theorem witness_ResultCommand_found :
    nextCommand { searchOf [99, 0, 0] [99, 6, 7] .halted .done 99 with sstate := .found, answer := 607, pending := [.result] } .result [] ∧
    ({ searchOf [99, 0, 0] [99, 6, 7] .halted .done 99 with sstate := .found, answer := 607, pending := [.result] } : State).Inv := by
  refine ⟨⟨rfl, rfl⟩, ?_⟩
  constructor <;> first
    | decide
    | exact fun _ => by decide
    | exact fun _ _ => by decide
    | exact True.intro

theorem witness_PeekCommand :
    nextCommand (hostOf none [7, 8] (.peek 1)) (.peek 1) [] ∧ memRead (hostOf none [7, 8] (.peek 1)) 1 = some 8 ∧
    nextCommand (hostOf none [7, 8] (.peek 2)) (.peek 2) [] ∧ (hostOf none [7, 8] (.peek 2)).memLen ≤ 2 :=
  ⟨⟨rfl, rfl⟩, rfl, ⟨rfl, rfl⟩, by decide⟩

theorem witness_GetCommand : nextCommand (hostOf none [7] (.get .verbHi)) (.get .verbHi) [] := ⟨rfl, rfl⟩

theorem witness_SetRangeCommand :
    nextCommand (hostOf (some 8) [] (.setRange 0 256 0 0)) (.setRange 0 256 0 0) [] ∧
    tooLarge (hostOf (some 8) [] (.setRange 0 256 0 0)).cfg 256 ∧
    nextCommand (hostOf (some 8) [] (.setRange 255 255 255 255)) (.setRange 255 255 255 255) [] ∧
    ¬ tooLarge (hostOf (some 8) [] (.setRange 255 255 255 255)).cfg 255 :=
  ⟨⟨rfl, rfl⟩, tooLarge_boundary.1, ⟨rfl, rfl⟩, tooLarge_boundary.2⟩

theorem witness_ResetCommand :
    nextCommand { hostOf (some 8) [7] .reset with runState := .faulted } .reset [] ∧
    step { hostOf (some 8) [7] .reset with runState := .faulted } =
      .next (State.initial { wordBits := some 8, memMax := none }) := ⟨⟨rfl, rfl⟩, rfl⟩

/-- A refused command and an accepted one. -/
theorem witness_RefusalsAreExactlyTheListed :
    refusedBy (hostOf none [7] (.peek 1)) (.peek 1) ∧ ¬ refusedBy (hostOf none [7] (.peek 0)) (.peek 0) ∧
    nextCommand (hostOf none [7] (.peek 1)) (.peek 1) [] ∧ nextCommand (hostOf none [7] (.peek 0)) (.peek 0) [] ∧
    step (hostOf none [7] (.peek 1)) = .next { hostOf none [7] (.peek 1) with pending := [], response := some .refused } ∧
    step (hostOf none [7] (.peek 0)) = .next { hostOf none [7] (.peek 0) with pending := [], response := some (.value 7) } :=
  ⟨by simp [refusedBy, hostOf], by simp [refusedBy, hostOf], ⟨rfl, rfl⟩, ⟨rfl, rfl⟩, rfl, rfl⟩

/-- A command in progress. -/
theorem witness_RefusalsAreExactlyTheListed_in_progress :
    quiescent (runOf none [99] 0) = false ∧ step (runOf none [99] 0) = .next (halt (runOf none [99] 0)) := ⟨rfl, rfl⟩

theorem witness_OldestWaitingCommandIsAccepted :
    quiescent State.reset = true ∧ State.reset.pending = [] ∧
    nextCommand (hostOf none [7] .result) .result [] := ⟨rfl, rfl, rfl, rfl⟩

/-! ## Witnesses: the search controller -/

/-- The three lengths of the baseline that the clauses name, at their boundaries. -/
theorem witness_LoadPhaseSetsUpCandidate :
    (searchOf [99, 0, 0] [] .halted (.load 6 7) 99).runActive = false ∧
    (searchOf [99, 0, 0] [] .halted (.load 6 7) 99).phase = .load 6 7 ∧
    ¬ tooLarge (searchOf [99, 0, 0] [] .halted (.load 6 7) 99).cfg 6 ∧
    ¬ tooLarge (searchOf [99, 0, 0] [] .halted (.load 6 7) 99).cfg 7 ∧
    3 ≤ (searchOf [99, 0, 0] [] .halted (.load 6 7) 99).baseLen ∧
    (searchOf [1, 0] [] .halted (.load 6 7) 2).baseLen = 2 ∧ (searchOf [1] [] .halted (.load 6 7) 2).baseLen ≤ 1 :=
  ⟨rfl, rfl, not_tooLarge_standard 6, not_tooLarge_standard 7, by decide, rfl, by decide⟩

/-- The values 256 and 255 meet each combination, and the baselines each length that the clauses name. -/
theorem witness_UnfitCandidateValueIsNotPatched :
    tooLarge (hostOf (some 8) [1, 0, 0] (.search 0)).cfg 256 ∧ ¬ tooLarge (hostOf (some 8) [1, 0, 0] (.search 0)).cfg 255 ∧
    3 ≤ (hostOf (some 8) [1, 0, 0] (.search 0)).baseLen ∧ (hostOf (some 8) [1, 0] (.search 0)).baseLen = 2 ∧
    (hostOf (some 8) [1] (.search 0)).baseLen ≤ 1 :=
  ⟨tooLarge_boundary.1, tooLarge_boundary.2, by decide, rfl, by decide⟩

/-- The longest short baseline and the empty one (vectors S11 and S12), over a range that is not empty. -/
theorem witness_ShortBaselineFaultsEveryCandidate :
    (hostOf (some 6) [1, 0] (.search 2)).baseLen < 3 ∧ (hostOf (some 6) [] (.search 0)).baseLen < 3 ∧
    (hostOf (some 6) [] (.search 0)).nounLo ≤ (hostOf (some 6) [] (.search 0)).nounHi ∧
    (hostOf (some 6) [] (.search 0)).verbLo ≤ (hostOf (some 6) [] (.search 0)).verbHi := by decide

theorem witness_ExecAndCheckPhaseTransitions_exec :
    (searchOf [99, 0, 0] [99, 6, 7] .halted (.exec 6 7) 99).runActive = false ∧
    (searchOf [99, 0, 0] [99, 6, 7] .halted (.exec 6 7) 99).phase = .exec 6 7 ∧
    (searchOf [99, 0, 0] [99, 6, 7] .halted (.exec 6 7) 99).runState ≠ .running := by decide

theorem witness_ExecAndCheckPhaseTransitions_match :
    (searchOf [99, 0, 0] [99, 6, 7] .halted (.check 6 7) 99).runState = .halted ∧
    memRead (searchOf [99, 0, 0] [99, 6, 7] .halted (.check 6 7) 99) 0 =
      some (searchOf [99, 0, 0] [99, 6, 7] .halted (.check 6 7) 99).target := by decide

/-- No match: the next verb, the next noun and the end of the range, after a fault and after a halt. -/
theorem witness_ExecAndCheckPhaseTransitions_no_match :
    (searchOf [1, 0] [1, 6] .faulted (.check 6 6) 2).runState = .faulted ∧ 6 < (searchOf [1, 0] [1, 6] .faulted (.check 6 6) 2).verbHi ∧
    ¬ ((searchOf [1, 0] [1, 6] .faulted (.check 6 6) 2).runState = .halted ∧
      memRead (searchOf [1, 0] [1, 6] .faulted (.check 6 6) 2) 0 = some 2) ∧
    (searchOf [99, 0, 0] [99, 6, 7] .halted (.check 6 7) 98).runState ≠ .faulted ∧
    memRead (searchOf [99, 0, 0] [99, 6, 7] .halted (.check 6 7) 98) 0 ≠ some 98 ∧
    7 = (searchOf [99, 0, 0] [99, 6, 7] .halted (.check 6 7) 98).verbHi ∧
    6 < (searchOf [99, 0, 0] [99, 6, 7] .halted (.check 6 7) 98).nounHi ∧
    7 = (searchOf [99, 0, 0] [99, 7, 7] .halted (.check 7 7) 98).nounHi := by decide

theorem witness_EmptyRangeEndsNotFoundAtOnce :
    nextCommand { hostOf none [7] (.search 50) with nounLo := 3, nounHi := 2 } (.search 50) [] ∧
    nextCommand { hostOf none [7] (.search 50) with nounLo := 3, nounHi := 3 } (.search 50) [] ∧
    ¬ tooLarge (hostOf none [7] (.search 50)).cfg 50 ∧ (2 : Nat) < 3 ∧ (3 : Nat) ≤ 3 :=
  ⟨⟨rfl, rfl⟩, ⟨rfl, rfl⟩, not_tooLarge_standard 50, by decide, by decide⟩

theorem witness_CandidatesAreEnumeratedNounMajor :
    (searchOf [] [] .running .idle 0).nounLo ≤ (searchOf [] [] .running .idle 0).nounHi ∧
    (searchOf [] [] .running .idle 0).verbLo ≤ (searchOf [] [] .running .idle 0).verbHi ∧
    3 < (candidates (searchOf [] [] .running .idle 0)).length := by decide

/-- Also a witness of SearchEndsWithinBound: a first search, accepted in the phase Idle. -/
theorem witness_SearchCommandRefinesNestedLoops :
    nextCommand (hostOf (some 8) [1, 0, 0, 0, 99] (.search 255)) (.search 255) [] ∧
    ¬ tooLarge (hostOf (some 8) [1, 0, 0, 0, 99] (.search 255)).cfg 255 := ⟨⟨rfl, rfl⟩, tooLarge_boundary.2⟩

/-- A search after an earlier one (vector S6): accepted in the phase Done with `SSTATE = Found`. -/
theorem witness_SearchEndsWithinBound_again :
    nextCommand { searchOf [99, 0, 0] [99, 6, 6] .halted .done 99 with sstate := .found, verb := 6, answer := 606, pending := [.search 98] }
      (.search 98) [] ∧
    ({ searchOf [99, 0, 0] [99, 6, 6] .halted .done 99 with sstate := .found, verb := 6, answer := 606, pending := [.search 98] } : State).phase = .done ∧
    ¬ tooLarge (searchOf [99, 0, 0] [99, 6, 6] .halted .done 99).cfg 98 := ⟨⟨rfl, rfl⟩, rfl, not_tooLarge_standard 98⟩

/-- The candidate (6, 7) of baseline B1 is number 1 of the range 6 to 7, 6 to 7 and the first that gives 50 (vector S1). -/
theorem witness_SearchReportsFirstMatch :
    (candidates (searchOf [1, 0, 0, 0, 99, 10, 20, 30] [] .running .idle 0))[1]? = some (6, 7) ∧
    candidateMatches (tryCandidate 6 7 (beginSearch 50 (searchOf [1, 0, 0, 0, 99, 10, 20, 30] [] .running .idle 0))) = true ∧
    ∀ j n' v', j < 1 → (candidates (searchOf [1, 0, 0, 0, 99, 10, 20, 30] [] .running .idle 0))[j]? = some (n', v') →
      candidateMatches (tryCandidate n' v' (beginSearch 50 (searchOf [1, 0, 0, 0, 99, 10, 20, 30] [] .running .idle 0))) = false := by
  refine ⟨by decide, by decide, fun j n' v' hj h => ?_⟩
  obtain rfl : j = 0 := by omega
  have h0 : (candidates (searchOf [1, 0, 0, 0, 99, 10, 20, 30] [] .running .idle 0))[0]? = some (6, 6) := by decide
  rw [h0] at h
  cases h
  decide

/-- No candidate of the range 6 to 7, 6 to 7 gives 98 (as in vector S10). -/
theorem witness_ExhaustedSearchReportsNotFound :
    ∀ n v, (n, v) ∈ candidates (searchOf [99, 0, 0] [] .running .idle 0) →
      candidateMatches (tryCandidate n v (beginSearch 98 (searchOf [99, 0, 0] [] .running .idle 0))) = false := by
  intro n v h
  have hc : candidates (searchOf [99, 0, 0] [] .running .idle 0) = [(6, 6), (6, 7), (7, 6), (7, 7)] := by decide
  rw [hc] at h
  simp only [List.mem_cons, Prod.mk.injEq, List.not_mem_nil, or_false] at h
  obtain ⟨rfl, rfl⟩ | ⟨rfl, rfl⟩ | ⟨rfl, rfl⟩ | ⟨rfl, rfl⟩ := h <;> decide

theorem witness_CandidatesAreIsolated :
    (searchOf [99, 0, 0] [] .running .idle 0).cfg = (searchOf [99, 0, 0] [1, 2] .faulted .done 9).cfg ∧
    (searchOf [99, 0, 0] [] .running .idle 0).base = (searchOf [99, 0, 0] [1, 2] .faulted .done 9).base := by decide

/-! ## Witness: the invariant, in the middle of a search -/

/-- The candidate (6, 7) of baseline B1 is set up and its run begins. -/
theorem witness_StepKeepsInvariant :
    (searchOf [1, 0, 0, 0, 99, 10, 20, 30] [1, 6, 7, 0, 99, 10, 20, 30] .running (.exec 6 7) 50).Inv ∧
    step (searchOf [1, 0, 0, 0, 99, 10, 20, 30] [1, 6, 7, 0, 99, 10, 20, 30] .running (.exec 6 7) 50) =
      .next (advance (searchOf [1, 0, 0, 0, 99, 10, 20, 30] [50, 6, 7, 0, 99, 10, 20, 30] .running (.exec 6 7) 50)) := by
  refine ⟨?_, rfl⟩
  constructor <;> first
    | decide
    | exact fun _ => by decide
    | exact fun _ _ => by decide
    | exact ⟨⟨⟨by decide, by decide, by decide, by decide⟩, by decide⟩, rfl, rfl, rfl, fun _ => by decide⟩

end Sys2Proof.Tests
end

/-! # SFCNT counts the faulted candidates (10_state.md rule R34)

The search tries its candidates one after the other, each from the state the candidate before it left. That the count can
be taken from the state in which the search began rests on the isolation of the candidates (43_search.md rule R193): the
Machine a candidate's run ends in is fixed by the parameters, the baseline and the pair. -/

namespace Sys2Proof.Machine

section MachineCongruence

/-! ## Equal Machines stay equal: each operation of a run reads and writes the Machine and the parameters only -/

variable {s t : State}

theorem sameMachine_store (a v : Nat) (h : sameMachine s t) : sameMachine (store s a v) (store t a v) := by
  obtain ⟨hcfg, hmem, hip, hrun, hrec⟩ := h
  exact ⟨hcfg, by simp [hmem], hip, hrun, hrec⟩

theorem sameMachine_raise (cause : FaultCause) (info : Nat) (slot : FaultSlot) (h : sameMachine s t) :
    sameMachine (raise s cause info slot) (raise t cause info slot) := by
  obtain ⟨hcfg, hmem, hip, -, -⟩ := h
  exact ⟨hcfg, hmem, hip, rfl, rfl, rfl, rfl⟩

theorem sameMachine_advance (h : sameMachine s t) : sameMachine (advance s) (advance t) := by
  obtain ⟨hcfg, hmem, hip, hrun, hrec⟩ := h
  exact ⟨hcfg, hmem, by simp [hip], hrun, hrec⟩

theorem sameMachine_halt (h : sameMachine s t) : sameMachine (halt s) (halt t) := by
  obtain ⟨hcfg, hmem, hip, -, hrec⟩ := h
  exact ⟨hcfg, hmem, hip, rfl, hrec⟩

theorem memRead_eq_of_sameMachine (a : Nat) (h : sameMachine s t) : memRead t a = memRead s a := by
  obtain ⟨-, hmem, -⟩ := h
  simp [memRead, hmem]

theorem inBounds_eq_of_sameMachine (a : Nat) (h : sameMachine s t) : inBounds t a = inBounds s a := by
  obtain ⟨-, hmem, -⟩ := h
  simp [inBounds, hmem]

theorem sameMachine_arithNext (op : AluOp) (a b d : Nat) (h : sameMachine s t) :
    sameMachine (arithNext op a b d s) (arithNext op a b d t) := by
  obtain ⟨hcfg, -⟩ := id h
  unfold arithNext readOperand destInBounds writeDest
  rw [memRead_eq_of_sameMachine _ h, memRead_eq_of_sameMachine _ h, inBounds_eq_of_sameMachine _ h, hcfg]
  cases memRead s (effectiveAddress a) with
  | none => exact sameMachine_raise _ _ _ h
  | some x =>
    cases memRead s (effectiveAddress b) with
    | none => exact sameMachine_raise _ _ _ h
    | some y =>
      cases inBounds s (effectiveAddress d) with
      | false => exact sameMachine_raise _ _ _ h
      | true =>
        dsimp only
        cases alu s.cfg op x y with
        | none => exact sameMachine_raise _ _ _ h
        | some r => exact sameMachine_advance (sameMachine_store _ _ h)

/-- The next state of a step in `Running`, by what decoding the window at `IP` gives. -/
def decodedNext : Decoded → State → State
  | .instr (.add a b d), s => arithNext .add a b d s
  | .instr (.mul a b d), s => arithNext .mul a b d s
  | .instr .hlt, s => halt s
  | .badOpcode op, s => raise s .decodeBadOpcode op .none
  | .shortWindow n, s => raise s .decodeShortWindow n .none

theorem sequencerStep_eq_decodedNext (hr : s.runState = .running) :
    sequencerStep s = .next (decodedNext (decode s.mem s.ip) s) := by
  obtain ⟨n, hd, e⟩ | ⟨op, hd, e⟩ | ⟨hd, e⟩ | ⟨a, b, d, hd, e⟩ | ⟨a, b, d, hd, e⟩ := sequencerStep_cases hr <;>
    rw [e, hd, decodedNext]

theorem sameMachine_decodedNext (d : Decoded) (h : sameMachine s t) :
    sameMachine (decodedNext d s) (decodedNext d t) := by
  rcases d with (⟨a, b, d⟩ | ⟨a, b, d⟩ | _) | op | n
  · exact sameMachine_arithNext .add a b d h
  · exact sameMachine_arithNext .mul a b d h
  · exact sameMachine_halt h
  · exact sameMachine_raise _ _ _ h
  · exact sameMachine_raise _ _ _ h

end MachineCongruence

theorem sameMachine_runFuel (k : Nat) {s t : State} (h : sameMachine s t) :
    sameMachine (runFuel k s) (runFuel k t) := by
  induction k generalizing s t with
  | zero => exact h
  | succ k ih =>
    obtain ⟨-, hmem, hip, hrun, -⟩ := id h
    by_cases hr : s.runState = .running
    · have ht : t.runState = .running := hrun.trans hr
      rw [runFuel_succ_of_next k hr (sequencerStep_eq_decodedNext hr),
        runFuel_succ_of_next k ht (sequencerStep_eq_decodedNext ht), hmem, hip]
      exact ih (sameMachine_decodedNext _ h)
    · rw [runFuel_of_not_running _ hr, runFuel_of_not_running _ (hrun ▸ hr)]
      exact h

theorem sameMachine_runToEnd {s t : State} (h : sameMachine s t) : sameMachine (runToEnd s) (runToEnd t) := by
  obtain ⟨-, hmem, -⟩ := id h
  have hlen : t.memLen = s.memLen := congrArg List.length hmem
  rw [runToEnd, runToEnd, hlen]
  exact sameMachine_runFuel _ h

/-! ## The isolation of candidates (43_search.md rule R193) -/

theorem sameMachine_restore {s t : State} (hcfg : t.cfg = s.cfg) (hbase : t.base = s.base) :
    sameMachine (restore s) (restore t) :=
  ⟨hcfg, hbase, rfl, rfl, rfl, rfl, rfl⟩

theorem sameMachine_patchCell (p v : Nat) {s t : State} (h : sameMachine s t) :
    sameMachine (patchCell s p v) (patchCell t p v) := by
  unfold patchCell memWrite
  rw [inBounds_eq_of_sameMachine p h]
  cases inBounds s p with
  | false => exact sameMachine_raise _ _ _ h
  | true => exact sameMachine_store p v h

theorem sameMachine_patchStep (p v : Nat) {s t : State} (h : sameMachine s t) :
    sameMachine (patchStep p v s) (patchStep p v t) := by
  obtain ⟨hcfg, -, -, hrun, -⟩ := id h
  by_cases hr : s.runState = .running
  · simp only [patchStep, hrun, hr, hcfg, inBounds_eq_of_sameMachine p h]
    split
    · exact h
    · exact sameMachine_patchCell p v h
  · rw [patchStep_of_not_running p v hr, patchStep_of_not_running p v (hrun ▸ hr)]
    exact h

theorem sameMachine_setUpCandidate (n v : Nat) {s t : State} (hcfg : t.cfg = s.cfg) (hbase : t.base = s.base) :
    sameMachine (setUpCandidate n v s) (setUpCandidate n v t) :=
  sameMachine_patchStep _ _ (sameMachine_patchStep _ _ (sameMachine_restore hcfg hbase))

/-- The Machine in which a candidate's run ends is fixed by the parameters, the baseline and the pair. -/
theorem sameMachine_tryCandidate (n v : Nat) {s t : State} (hcfg : t.cfg = s.cfg) (hbase : t.base = s.base) :
    sameMachine (tryCandidate n v s) (tryCandidate n v t) :=
  sameMachine_runToEnd (sameMachine_setUpCandidate n v hcfg hbase)

/-- Outside the Machine, trying a candidate writes `NOUN` and `VERB` and nothing else. -/
theorem tryCandidate_frame (n v : Nat) (s : State) :
    searcherUnchanged { s with noun := n, verb := v } (tryCandidate n v s) := by
  obtain ⟨mem, runState, fcause, finfo, e, -⟩ := setUpCandidate_cases n v s
  have hset : searcherUnchanged { s with noun := n, verb := v } (setUpCandidate n v s) := by
    simp [e, searcherUnchanged, boundsUnchanged, searchUnchanged]
  exact searcherUnchanged_trans hset (runToEnd_frame _).1

@[simp] theorem tryCandidate_cfg (n v : Nat) (s : State) : (tryCandidate n v s).cfg = s.cfg := by
  obtain ⟨-, -, -, -, hcfg, -⟩ := tryCandidate_frame n v s
  exact hcfg

@[simp] theorem tryCandidate_base (n v : Nat) (s : State) : (tryCandidate n v s).base = s.base := by
  obtain ⟨hbase, -⟩ := tryCandidate_frame n v s
  exact hbase

@[simp] theorem tryCandidate_noun (n v : Nat) (s : State) : (tryCandidate n v s).noun = n := by
  obtain ⟨-, -, ⟨-, hnoun, -⟩, -⟩ := tryCandidate_frame n v s
  exact hnoun

@[simp] theorem tryCandidate_verb (n v : Nat) (s : State) : (tryCandidate n v s).verb = v := by
  obtain ⟨-, -, ⟨-, -, hverb, -⟩, -⟩ := tryCandidate_frame n v s
  exact hverb

@[simp] theorem tryCandidate_sfcnt (n v : Nat) (s : State) : (tryCandidate n v s).sfcnt = s.sfcnt := by
  obtain ⟨-, -, ⟨-, -, -, -, -, hsfcnt⟩, -⟩ := tryCandidate_frame n v s
  exact hsfcnt

/-! ## The count along the loops of 43_search.md rule R182 -/

/-- The run of the candidate `p`, tried from `s`, ends `Faulted`. -/
abbrev candidateFaults (s : State) (p : Nat × Nat) : Bool :=
  decide ((tryCandidate p.1 p.2 s).runState = .faulted)

theorem searchOver_cons_of_match {n v : Nat} {s : State} (rest : List (Nat × Nat))
    (h : candidateMatches (tryCandidate n v s) = true) :
    searchOver ((n, v) :: rest) s = finishFound n v (tryCandidate n v s) := by
  rw [searchOver, if_pos h]

theorem searchOver_cons_of_not_match {n v : Nat} {s : State} (rest : List (Nat × Nat))
    (h : candidateMatches (tryCandidate n v s) = false) :
    searchOver ((n, v) :: rest) s = searchOver rest (countFault (tryCandidate n v s)) := by
  rw [searchOver, if_neg (by simp [h])]

/-- A failed candidate's contribution to `SFCNT`, as seen from any state with the same parameters and baseline. -/
theorem countFault_tryCandidate_sfcnt (n v : Nat) {s₀ s : State} (hcfg : s.cfg = s₀.cfg) (hbase : s.base = s₀.base) :
    (countFault (tryCandidate n v s)).sfcnt = s.sfcnt + if candidateFaults s₀ (n, v) then 1 else 0 := by
  obtain ⟨-, -, -, hrun, -⟩ := sameMachine_tryCandidate n v hcfg hbase
  by_cases hf : (tryCandidate n v s₀).runState = .faulted <;> simp [hrun, hf]

/-- The loops over any candidates still to try, from a state `s` on the way: `SFCNT` grows by the faulted ones among the
first `k`, where `k` is the number of the match, or of all of them when there is none. -/
theorem searchOver_sfcnt (s₀ : State) (cs : List (Nat × Nat)) (s : State)
    (hcfg : s.cfg = s₀.cfg) (hbase : s.base = s₀.base) :
    ∃ k ≤ cs.length, (searchOver cs s).sfcnt = s.sfcnt + (cs.take k).countP (candidateFaults s₀) ∧
      ((searchOver cs s).sstate = .notFound ∧ k = cs.length ∨
        (searchOver cs s).sstate = .found ∧ cs[k]? = some ((searchOver cs s).noun, (searchOver cs s).verb)) := by
  induction cs generalizing s with
  | nil => exact ⟨0, le_rfl, rfl, .inl ⟨rfl, rfl⟩⟩
  | cons p rest ih =>
    obtain ⟨n, v⟩ := p
    cases hm : candidateMatches (tryCandidate n v s) with
    | true =>
      rw [searchOver_cons_of_match rest hm]
      exact ⟨0, Nat.zero_le _, by simp, .inr ⟨rfl, by simp⟩⟩
    | false =>
      rw [searchOver_cons_of_not_match rest hm]
      obtain ⟨k, hk, hcount, hend⟩ :=
        ih (countFault (tryCandidate n v s)) (by simpa using hcfg) (by simpa using hbase)
      refine ⟨k + 1, Nat.succ_le_succ hk, ?_, by simpa using hend⟩
      rw [hcount, countFault_tryCandidate_sfcnt n v hcfg hbase, List.take_succ_cons, List.countP_cons]
      omega

/-- Settles O51: the loops begin with `SFCNT` 0, over all the candidates. -/
theorem sfcntCountsFaultedCandidates : Obligations.SfcntCountsFaultedCandidates := by
  intro s target
  simpa [searchWhole] using searchOver_sfcnt (beginSearch target s) (candidates s) (beginSearch target s) rfl rfl

end Sys2Proof.Machine

/-! # The opcode map and the dispatch algorithm (30_encoding.md rules R96 and R99)

One equation of `decodeWindow` per branch of rule R96. `decode` reads the same cells through `MEM`, `MEM_LEN` and `IP`:
the window at an `IP` inside memory is the cell at `IP` followed by the cells after it. -/

namespace Sys2Proof

/-! ## The branches of the dispatch on a window of cells -/

@[simp] theorem decodeWindow_nil : decodeWindow [] = .shortWindow 0 := rfl

@[simp] theorem decodeWindow_hlt (rest : List Nat) : decodeWindow (opHlt :: rest) = .instr .hlt := rfl

@[simp] theorem decodeWindow_add (a b d : Nat) (rest : List Nat) :
    decodeWindow (opAdd :: a :: b :: d :: rest) = .instr (.add a b d) := rfl

@[simp] theorem decodeWindow_mul (a b d : Nat) (rest : List Nat) :
    decodeWindow (opMul :: a :: b :: d :: rest) = .instr (.mul a b d) := rfl

/-- ADD and MUL need four cells: with fewer than three operand cells the window is short, by its whole length. -/
theorem decodeWindow_of_length_lt {op : Nat} {rest : List Nat} (hop : op = opAdd ∨ op = opMul) (h : rest.length < 3) :
    decodeWindow (op :: rest) = .shortWindow (rest.length + 1) := by
  rcases rest with _ | ⟨a, _ | ⟨b, _ | ⟨d, rest⟩⟩⟩
  · rcases hop with rfl | rfl <;> rfl
  · rcases hop with rfl | rfl <;> rfl
  · rcases hop with rfl | rfl <;> rfl
  · exact absurd h (by simp)

/-- An opcode cell with none of the three opcodes is illegal, whatever cells follow (rule R103). -/
theorem decodeWindow_of_illegal {op : Nat} (rest : List Nat) (hadd : op ≠ opAdd) (hmul : op ≠ opMul) (hhlt : op ≠ opHlt) :
    decodeWindow (op :: rest) = .badOpcode op := by
  simp [decodeWindow, hadd, hmul, hhlt]

/-- Settles O1: each clause is one branch of the dispatch. -/
theorem opcodeMapIsComplete : Obligations.OpcodeMapIsComplete :=
  ⟨decodeWindow_add, decodeWindow_mul, decodeWindow_hlt, fun _ _ hop => decodeWindow_of_length_lt hop,
    fun _ rest => decodeWindow_of_illegal rest⟩

/-! ## The window at an address of memory -/

theorem drop_of_getElem? {mem : List Nat} {i v : Nat} (h : mem[i]? = some v) : mem.drop i = v :: mem.drop (i + 1) := by
  obtain ⟨hi, rfl⟩ := List.getElem?_eq_some_iff.mp h
  exact List.drop_eq_getElem_cons hi

/-- With `IP` at or past the end of memory there is no cell to decode. -/
theorem decode_of_length_le {mem : List Nat} {ip : Nat} (h : mem.length ≤ ip) : decode mem ip = .shortWindow 0 := by
  rw [decode, List.drop_of_length_le h, decodeWindow_nil]

/-- With `IP` inside memory the opcode is the cell at `IP` and the operands are the cells after it. -/
theorem decode_of_getElem? {mem : List Nat} {ip op : Nat} (h : mem[ip]? = some op) :
    decode mem ip = decodeWindow (op :: mem.drop (ip + 1)) := by
  rw [decode, drop_of_getElem? h]

/-- Fewer than four cells left at an ADD or MUL: the window is short, of the cells that are left. -/
theorem decode_of_short {mem : List Nat} {ip op : Nat} (hcell : mem[ip]? = some op) (hop : op = opAdd ∨ op = opMul)
    (hshort : mem.length - ip < 4) : decode mem ip = .shortWindow (mem.length - ip) := by
  obtain ⟨hip, -⟩ := List.getElem?_eq_some_iff.mp hcell
  have hlen : (mem.drop (ip + 1)).length + 1 = mem.length - ip := by
    rw [List.length_drop]
    omega
  rw [decode_of_getElem? hcell, decodeWindow_of_length_lt hop (by omega), hlen]

/-- Four cells left: the operands are the next three. -/
theorem decode_of_four_cells {mem : List Nat} {ip op a b d : Nat} (hcell : mem[ip]? = some op)
    (ha : mem[ip + 1]? = some a) (hb : mem[ip + 2]? = some b) (hd : mem[ip + 3]? = some d) :
    decode mem ip = decodeWindow (op :: a :: b :: d :: mem.drop (ip + 4)) := by
  rw [decode_of_getElem? hcell, drop_of_getElem? ha, drop_of_getElem? hb, drop_of_getElem? hd]

/-- Settles O2: the window at `IP` is empty or begins with the cell at `IP`, and that cell and the number of cells left
select the branch of the dispatch. -/
theorem decodeFollowsDispatchAlgorithm : Obligations.DecodeFollowsDispatchAlgorithm := by
  intro mem ip
  refine ⟨decode_of_length_le, fun op hcell => ⟨?hlt, decode_of_short hcell, ?fourCells, ?illegal⟩⟩
  case hlt =>
    rintro rfl
    rw [decode_of_getElem? hcell]
    exact decodeWindow_hlt _
  case fourCells =>
    intro a b d ha hb hd
    rw [decode_of_four_cells hcell ha hb hd]
    constructor
    · rintro rfl
      exact decodeWindow_add a b d _
    · rintro rfl
      exact decodeWindow_mul a b d _
  case illegal =>
    intro hadd hmul hhlt
    rw [decode_of_getElem? hcell]
    exact decodeWindow_of_illegal _ hadd hmul hhlt

end Sys2Proof

/-! # ADD and MUL: the effect and the faults in their order (40_alu.md rules R121 and R122)

The two instructions differ in the opcode cell and in the ALU operation only. Each fact is stated once for the operation
`op`; an obligation is these facts at one operation. -/

namespace Sys2Proof.Machine

/-- The instruction that applies an ALU operation: ADD or MUL. -/
def AluOp.instr : AluOp → Nat → Nat → Nat → Instr
  | .add => .add
  | .mul => .mul

/-- The opcode cell of the instruction that applies an ALU operation. -/
def AluOp.opcodeCell : AluOp → Nat
  | .add => opAdd
  | .mul => opMul

section ArithmeticInstruction

variable (op : AluOp) {s : State} {a b d x y : Nat}

/-! ## The checks, in their order, and the effect -/

theorem arithNext_of_aPos_outOfBounds (b d : Nat) (ha : s.mem.length ≤ a) :
    arithNext op a b d s = raise s .addrOOB a .aPos := by
  have hread : memRead s a = none := (memRead_eq_none_iff s a).mpr ha
  simp [arithNext, readOperand, effectiveAddress, hread]

theorem arithNext_of_bPos_outOfBounds (d : Nat) (ha : a < s.mem.length) (hb : s.mem.length ≤ b) :
    arithNext op a b d s = raise s .addrOOB b .bPos := by
  have hread : memRead s b = none := (memRead_eq_none_iff s b).mpr hb
  simp [arithNext, readOperand, effectiveAddress, memRead_of_inBounds ha, hread]

/-- With both sources read, the destination is checked before the result. -/
theorem arithNext_of_operands (d : Nat) (hx : memRead s a = some x) (hy : memRead s b = some y) :
    arithNext op a b d s =
      if d < s.mem.length then
        if s.cfg.fits (aluExact op x y) then advance (store s d (aluExact op x y)) else raise s .arithOverflow 0 .none
      else raise s .addrOOB d .destPos := by
  obtain ⟨hfits, halu⟩ | ⟨hfits, halu⟩ := alu_cases s.cfg op x y <;>
    simp [arithNext, readOperand, destInBounds, writeDest, effectiveAddress, hx, hy, hfits, halu]

theorem arithNext_of_destPos_outOfBounds (ha : a < s.mem.length) (hb : b < s.mem.length) (hd : s.mem.length ≤ d) :
    arithNext op a b d s = raise s .addrOOB d .destPos := by
  rw [arithNext_of_operands op d (memRead_of_inBounds ha) (memRead_of_inBounds hb), if_neg (Nat.not_lt.mpr hd)]

theorem arithNext_of_tooLarge (hx : memRead s a = some x) (hy : memRead s b = some y) (hd : d < s.mem.length)
    (hlarge : tooLarge s.cfg (aluExact op x y)) : arithNext op a b d s = raise s .arithOverflow 0 .none := by
  have hfits : ¬ s.cfg.fits (aluExact op x y) = true := fun h => (fits_eq_true_iff _ _).mp h hlarge
  rw [arithNext_of_operands op d hx hy, if_pos hd, if_neg hfits]

theorem arithNext_of_not_tooLarge (hx : memRead s a = some x) (hy : memRead s b = some y) (hd : d < s.mem.length)
    (hlarge : ¬ tooLarge s.cfg (aluExact op x y)) :
    arithNext op a b d s = advance (store s d (aluExact op x y)) := by
  rw [arithNext_of_operands op d hx hy, if_pos hd, if_pos ((fits_eq_true_iff _ _).mpr hlarge)]

theorem exec_aluInstr (a b d : Nat) (hr : s.runState = .running) :
    exec (op.instr a b d) s = .next (arithNext op a b d s) := by
  cases op with
  | add => exact whenRunning_of_running _ hr
  | mul => exact whenRunning_of_running _ hr

/-- The first half of R121 and R122, for the operation `op`. -/
theorem exec_aluInstr_effect_and_faults (a b d : Nat) (hr : s.runState = .running) :
    (s.memLen ≤ a → exec (op.instr a b d) s = .next (faultedWith s .addrOOB a .aPos)) ∧
    (a < s.memLen → s.memLen ≤ b → exec (op.instr a b d) s = .next (faultedWith s .addrOOB b .bPos)) ∧
    (a < s.memLen → b < s.memLen → s.memLen ≤ d →
      exec (op.instr a b d) s = .next (faultedWith s .addrOOB d .destPos)) ∧
    (∀ x y, memRead s a = some x → memRead s b = some y → d < s.memLen →
      (tooLarge s.cfg (aluExact op x y) → exec (op.instr a b d) s = .next (faultedWith s .arithOverflow 0 .none)) ∧
      (¬ tooLarge s.cfg (aluExact op x y) →
        exec (op.instr a b d) s = .next { s with mem := s.mem.set d (aluExact op x y), ip := s.ip + 4 })) := by
  rw [exec_aluInstr op a b d hr]
  refine ⟨fun ha => ?_, fun ha hb => ?_, fun ha hb hd => ?_, fun x y hx hy hd => ⟨fun hlarge => ?_, fun hlarge => ?_⟩⟩
  · exact congrArg _ (arithNext_of_aPos_outOfBounds op b d ha)
  · exact congrArg _ (arithNext_of_bPos_outOfBounds op d ha hb)
  · exact congrArg _ (arithNext_of_destPos_outOfBounds op ha hb hd)
  · exact congrArg _ (arithNext_of_tooLarge op hx hy hd hlarge)
  · exact congrArg _ (arithNext_of_not_tooLarge op hx hy hd hlarge)

/-! ## The step at the opcode cell -/

theorem opcodeCell_eq_opAdd_or_opMul : op.opcodeCell = opAdd ∨ op.opcodeCell = opMul := by
  cases op with
  | add => exact .inl rfl
  | mul => exact .inr rfl

theorem decodeWindow_opcodeCell (a b d : Nat) (rest : List Nat) :
    decodeWindow (op.opcodeCell :: a :: b :: d :: rest) = .instr (op.instr a b d) := by
  cases op with
  | add => exact decodeWindow_add a b d rest
  | mul => exact decodeWindow_mul a b d rest

theorem step_of_decode_instr {i : Instr} (hs : sequencerStarted s = true) (hr : s.runState = .running)
    (hdec : decode s.mem s.ip = .instr i) : step s = exec i s := by
  rw [step_of_started hs hr, sequencerStep, hdec]

theorem step_of_decode_shortWindow {n : Nat} (hs : sequencerStarted s = true) (hr : s.runState = .running)
    (hdec : decode s.mem s.ip = .shortWindow n) : step s = .next (raise s .decodeShortWindow n .none) := by
  rw [step_of_started hs hr, sequencerStep, hdec]

/-- The second half of R121 and R122, for the operation `op`. -/
theorem step_at_opcodeCell (hs : sequencerStarted s = true) (hr : s.runState = .running)
    (hop : memRead s s.ip = some op.opcodeCell) :
    (s.memLen ≤ s.ip + 3 → step s = .next (faultedWith s .decodeShortWindow (s.memLen - s.ip) .none)) ∧
    (∀ a b d, memRead s (s.ip + 1) = some a → memRead s (s.ip + 2) = some b → memRead s (s.ip + 3) = some d →
      step s = exec (op.instr a b d) s) := by
  refine ⟨fun hshort => ?_, fun a b d ha hb hd => ?_⟩
  · rw [memLen_eq] at hshort
    have hleft : s.mem.length - s.ip < 4 := by omega
    exact step_of_decode_shortWindow hs hr (decode_of_short hop (opcodeCell_eq_opAdd_or_opMul op) hleft)
  · have hdec : decode s.mem s.ip = .instr (op.instr a b d) := by
      rw [decode_of_four_cells hop ha hb hd, decodeWindow_opcodeCell]
    exact step_of_decode_instr hs hr hdec

end ArithmeticInstruction

/-- Settles O11: the facts above at the ALU operation `add`. -/
theorem addEffectAndFaults : Obligations.AddEffectAndFaults :=
  ⟨fun _ a b d hr => exec_aluInstr_effect_and_faults .add a b d hr, fun _ hs hr hop => step_at_opcodeCell .add hs hr hop⟩

/-- Settles O12: the facts above at the ALU operation `mul`. -/
theorem mulEffectAndFaults : Obligations.MulEffectAndFaults :=
  ⟨fun _ a b d hr => exec_aluInstr_effect_and_faults .mul a b d hr, fun _ hs hr hop => step_at_opcodeCell .mul hs hr hop⟩

end Sys2Proof.Machine

/-! # The step algorithm, HLT and the advance of `IP` (41_halt_and_sequencing.md rules R140, R143, R144 and R146)

One equation of `stepAlgorithm` per outcome of its fetch (lines 1 to 6), in the words of the model's operations. The decoder
tells the same outcomes apart by the same cells, so the next state of a step is the step algorithm's. -/

namespace Sys2Proof.Machine

section StepAlgorithm

variable {s : State}

/-! ## HLT at `IP` -/

theorem exec_hlt (hr : s.runState = .running) : exec .hlt s = .next (halt s) :=
  whenRunning_of_running _ hr

/-- The window of HLT is one cell: the cells that follow it are not looked at. -/
theorem decode_of_hlt {mem : List Nat} {ip : Nat} (hcell : mem[ip]? = some opHlt) : decode mem ip = .instr .hlt := by
  rw [decode_of_getElem? hcell, decodeWindow_hlt]

/-! ## The step algorithm, by the outcome of its fetch -/

theorem getD_of_getElem? {mem : List Nat} {i v : Nat} (h : mem[i]? = some v) : mem.getD i 0 = v := by
  rw [List.getD_eq_getElem?_getD, h, Option.getD_some]

theorem stepAlgorithm_of_length_le (h : s.mem.length ≤ s.ip) :
    stepAlgorithm s = raise s .decodeShortWindow 0 .none :=
  if_pos h

theorem stepAlgorithm_of_hlt (hcell : s.mem[s.ip]? = some opHlt) : stepAlgorithm s = halt s := by
  rw [stepAlgorithm, if_neg (Nat.not_le.mpr (inBounds_of_memRead hcell)), getD_of_getElem? hcell]
  exact if_pos rfl

theorem stepAlgorithm_of_illegal {v : Nat} (hcell : s.mem[s.ip]? = some v) (hadd : v ≠ opAdd) (hmul : v ≠ opMul)
    (hhlt : v ≠ opHlt) : stepAlgorithm s = raise s .decodeBadOpcode v .none := by
  rw [stepAlgorithm, if_neg (Nat.not_le.mpr (inBounds_of_memRead hcell)), getD_of_getElem? hcell]
  exact (if_neg hhlt).trans (if_pos ⟨hadd, hmul⟩)

/-- The opcode cell of ADD and of MUL passes the step algorithm's two tests of the opcode. -/
theorem opcodeCell_passes_fetch (op : AluOp) :
    op.opcodeCell ≠ 99 ∧ ¬ (op.opcodeCell ≠ 1 ∧ op.opcodeCell ≠ 2) := by
  cases op <;> decide

theorem stepAlgorithm_of_short {op : AluOp} (hcell : s.mem[s.ip]? = some op.opcodeCell)
    (hshort : s.mem.length ≤ s.ip + 3) :
    stepAlgorithm s = raise s .decodeShortWindow (s.mem.length - s.ip) .none := by
  obtain ⟨hhlt, hlegal⟩ := opcodeCell_passes_fetch op
  rw [stepAlgorithm, if_neg (Nat.not_le.mpr (inBounds_of_memRead hcell)), getD_of_getElem? hcell]
  exact (if_neg hhlt).trans ((if_neg hlegal).trans (if_pos hshort))

/-- The step algorithm takes ADD for the opcode 1 and MUL for the other. -/
theorem ite_opcodeCell_eq_aluExact (op : AluOp) (x y : Nat) :
    (if op.opcodeCell = 1 then x + y else x * y) = aluExact op x y := by
  cases op <;> rfl

/-- With four cells fetched, lines 7 to 14 make the checks of `arithNext` in its order, and its effect. -/
theorem stepAlgorithm_of_four_cells {op : AluOp} {a b d : Nat} (hcell : s.mem[s.ip]? = some op.opcodeCell)
    (ha : s.mem[s.ip + 1]? = some a) (hb : s.mem[s.ip + 2]? = some b) (hd : s.mem[s.ip + 3]? = some d) :
    stepAlgorithm s = arithNext op a b d s := by
  obtain ⟨hhlt, hlegal⟩ := opcodeCell_passes_fetch op
  have hip : ¬ s.ip ≥ s.mem.length := Nat.not_le.mpr (inBounds_of_memRead hcell)
  have hwindow : ¬ s.ip + 3 ≥ s.mem.length := Nat.not_le.mpr (inBounds_of_memRead hd)
  simp only [stepAlgorithm, getD_of_getElem? hcell, getD_of_getElem? ha, getD_of_getElem? hb, getD_of_getElem? hd,
    hip, hhlt, hlegal, hwindow, if_false, ite_opcodeCell_eq_aluExact]
  obtain ⟨hla, e⟩ | ⟨hla, hlb, e⟩ | ⟨hla, hlb, hld, e⟩ | ⟨x, y, hx, hy, hld, hfits, e⟩ | ⟨x, y, hx, hy, hld, hfits, e⟩ :=
    arithNext_cases op a b d s
  · rw [e, if_pos hla]
    rfl
  · rw [e, if_neg (Nat.not_le.mpr hla), if_pos hlb]
    rfl
  · rw [e, if_neg (Nat.not_le.mpr hla), if_neg (Nat.not_le.mpr hlb), if_pos hld]
    rfl
  · rw [e, if_neg (Nat.not_le.mpr (inBounds_of_memRead hx)), if_neg (Nat.not_le.mpr (inBounds_of_memRead hy)),
      if_neg (Nat.not_le.mpr hld), getD_of_getElem? hx, getD_of_getElem? hy]
    obtain ⟨w, hw, hlarge⟩ := (fits_eq_false_iff _ _).mp hfits
    rw [hw]
    exact if_pos (decide_eq_true hlarge)
  · rw [e, if_neg (Nat.not_le.mpr (inBounds_of_memRead hx)), if_neg (Nat.not_le.mpr (inBounds_of_memRead hy)),
      if_neg (Nat.not_le.mpr hld), getD_of_getElem? hx, getD_of_getElem? hy]
    have hlarge : ¬ tooLarge s.cfg (aluExact op x y) := (fits_eq_true_iff _ _).mp hfits
    rcases hw : s.cfg.wordBits with _ | w
    · rfl
    · exact if_neg fun h => hlarge ⟨w, hw, of_decide_eq_true h⟩

/-! ## A step is the step algorithm -/

theorem decodedNext_aluInstr (op : AluOp) (a b d : Nat) (s : State) :
    decodedNext (.instr (op.instr a b d)) s = arithNext op a b d s := by
  cases op <;> rfl

/-- The decoder and the step algorithm's fetch read the same cells to the same end. -/
theorem decodedNext_decode_eq_stepAlgorithm (s : State) : decodedNext (decode s.mem s.ip) s = stepAlgorithm s := by
  rcases hcell : s.mem[s.ip]? with _ | v
  · have hlen : s.mem.length ≤ s.ip := List.getElem?_eq_none_iff.mp hcell
    rw [decode_of_length_le hlen, stepAlgorithm_of_length_le hlen, decodedNext]
  by_cases hhlt : v = opHlt
  · subst hhlt
    rw [decode_of_hlt hcell, stepAlgorithm_of_hlt hcell, decodedNext]
  by_cases harith : ∃ op : AluOp, v = op.opcodeCell
  · obtain ⟨op, rfl⟩ := harith
    by_cases hshort : s.mem.length ≤ s.ip + 3
    · rw [decode_of_short hcell (opcodeCell_eq_opAdd_or_opMul op) (by omega), stepAlgorithm_of_short hcell hshort,
        decodedNext]
    · have ha := List.getElem?_eq_getElem (l := s.mem) (i := s.ip + 1) (by omega)
      have hb := List.getElem?_eq_getElem (l := s.mem) (i := s.ip + 2) (by omega)
      have hd := List.getElem?_eq_getElem (l := s.mem) (i := s.ip + 3) (by omega)
      rw [decode_of_four_cells hcell ha hb hd, decodeWindow_opcodeCell, decodedNext_aluInstr,
        stepAlgorithm_of_four_cells hcell ha hb hd]
  · have hadd : v ≠ opAdd := fun h => harith ⟨.add, h⟩
    have hmul : v ≠ opMul := fun h => harith ⟨.mul, h⟩
    rw [decode_of_getElem? hcell, decodeWindow_of_illegal _ hadd hmul hhlt,
      stepAlgorithm_of_illegal hcell hadd hmul hhlt, decodedNext]

end StepAlgorithm

/-- Settles O7: a started step in `Running` goes where the decoded window sends it, and that is the step algorithm's state. -/
theorem stepFollowsStepAlgorithm : Obligations.StepFollowsStepAlgorithm := by
  intro s hs hr
  rw [step_of_started hs hr, sequencerStep_eq_decodedNext hr, decodedNext_decode_eq_stepAlgorithm]

/-- Settles O13: HLT is `halt`, and the cell 99 at `IP` decodes to HLT. -/
theorem hltEffect : Obligations.HltEffect :=
  ⟨fun _ hr => exec_hlt hr, fun _ hs hr hcell => (step_of_decode_instr hs hr (decode_of_hlt hcell)).trans (exec_hlt hr)⟩

/-- No other branch of the dispatch gives HLT. -/
theorem memRead_of_decode_hlt {s : State} (h : decode s.mem s.ip = .instr .hlt) : memRead s s.ip = some opHlt := by
  obtain ⟨-, e⟩ | ⟨rest, hw, -⟩ | ⟨op, rest, -, -, -, e⟩ | ⟨a, b, d, rest, -, e⟩ | ⟨a, b, d, rest, -, e⟩ |
    ⟨op, rest, -, -, -, -, e⟩ := decodeWindow_cases (s.mem.drop s.ip)
  case inr.inl => simpa [memRead, hw] using (List.getElem?_drop (xs := s.mem) (i := s.ip) (j := 0)).symm
  all_goals
    rw [decode, e] at h
    cases h

/-- Settles O18, by what the step did: a fault's entry, HLT, or a result stored. -/
theorem ipAdvancesOnlyAfterAddAndMul : Obligations.IpAdvancesOnlyAfterAddAndMul := by
  intro s t hs hr hstep
  rw [step_of_started hs hr] at hstep
  obtain ⟨cause, info, slot, rfl⟩ | ⟨rfl, hdec⟩ | ⟨op, a, b, d, x, y, -, -, -, -, rfl, hdec⟩ :=
    sequencerStep_next_cases hr hstep
  · simp
  · have hcell : memRead (halt s) s.ip = some 99 := memRead_of_decode_hlt hdec
    simp [hcell]
  · have hinstr : decode s.mem s.ip = .instr (.add a b d) ∨ decode s.mem s.ip = .instr (.mul a b d) := by
      cases op with
      | add => exact .inl hdec
      | mul => exact .inr hdec
    refine ⟨fun _ => ⟨rfl, a, b, d, hinstr⟩, fun h => ?_, fun h => ?_⟩
    · simp [hr] at h
    · simp [hr] at h

end Sys2Proof.Machine

/-! # The host commands (42_host_commands.md rules R160 to R170)

The list of refusals of rule R169 cuts every command's acceptance in two: a listed command answers `Refused` and does nothing
else, any other has its effect. A RUN's effect is the run, carried to its end step by step; that it ends rests on `IP`, which
goes 4 cells further with every step that stays in `Running`. -/

namespace Sys2Proof.Machine

section HostCommands

variable {s : State}

/-! ## The refusals, in the words of the model's tests -/

theorem fitsImage_of_not_refusedBy {image : List Nat} (h : ¬ refusedBy s (.load image)) :
    s.cfg.fitsImage image = true := by
  rw [← Bool.not_eq_false]
  exact fun hfits => h ((fitsImage_eq_false_iff _ _).mp hfits)

theorem patchAllowed_of_not_refusedBy {p v : Nat} (h : ¬ refusedBy s (.patch p v)) : patchAllowed s v = true := by
  obtain ⟨hrun, hlarge⟩ := not_or.mp h
  exact (patchAllowed_eq_true_iff s v).mpr ⟨not_not.mp hrun, (fits_eq_true_iff _ _).mpr hlarge⟩

theorem bounds_fit_iff_not_refusedBy (s : State) (nlo nhi vlo vhi : Nat) :
    (s.cfg.fits nlo && s.cfg.fits nhi && s.cfg.fits vlo && s.cfg.fits vhi) = true ↔
      ¬ refusedBy s (.setRange nlo nhi vlo vhi) := by
  simp [refusedBy, fits_eq_true_iff, and_assoc]

/-- What a listed command does. -/
theorem accept_of_refusedBy {c : Command} (h : refusedBy s c) : accept c s = refuse s := by
  cases c with
  | load image => simp [accept, acceptLoad, (fitsImage_eq_false_iff _ _).mpr h]
  | patch p v =>
    have hdenied : patchAllowed s v = false :=
      (patchAllowed_eq_false_iff s v).mpr (h.imp_right (fits_eq_false_iff _ _).mpr)
    rw [accept, acceptPatch, if_neg (Bool.eq_false_iff.mp hdenied)]
  | run =>
    cases hrun : s.runState with
    | running => exact absurd hrun h
    | halted => simp [accept, acceptRun, hrun]
    | faulted => simp [accept, acceptRun, hrun]
  | peek a => simp [accept, acceptPeek, (memRead_eq_none_iff s a).mpr h]
  | setRange nlo nhi vlo vhi =>
    rw [accept, acceptSetRange, if_neg fun hfit => (bounds_fit_iff_not_refusedBy s nlo nhi vlo vhi).mp hfit h]
  | search target => simp [accept, acceptSearch, (fits_eq_false_iff _ _).mpr h]
  | result => exact h.elim
  | get r => exact h.elim
  | reset => exact h.elim

/-! ## The effect of each command that the list does not name -/

theorem accept_load_of_not_refusedBy {image : List Nat} (h : ¬ refusedBy s (.load image)) :
    accept (.load image) s = respond (loadImage image s) .done :=
  if_pos (fitsImage_of_not_refusedBy h)

theorem accept_patch_of_not_refusedBy {p v : Nat} (h : ¬ refusedBy s (.patch p v)) :
    accept (.patch p v) s = respond (patchCell s p v) (if inBounds s p then .done else .faulted) :=
  if_pos (patchAllowed_of_not_refusedBy h)

theorem accept_patch_of_inBounds {p v : Nat} (h : ¬ refusedBy s (.patch p v)) (hp : p < s.mem.length) :
    accept (.patch p v) s = respond (store s p v) .done := by
  simp [accept_patch_of_not_refusedBy h, patchCell, memWrite, hp]

theorem accept_patch_of_outOfBounds {p v : Nat} (h : ¬ refusedBy s (.patch p v)) (hp : s.mem.length ≤ p) :
    accept (.patch p v) s = respond (raise s .patchOOB p .none) .faulted := by
  simp [accept_patch_of_not_refusedBy h, patchCell, memWrite, Nat.not_lt.mpr hp]

theorem accept_run_of_running (h : s.runState = .running) :
    accept .run s = { s with runActive := true, response := none } := by
  simp [accept, acceptRun, h]

theorem accept_peek_of_memRead {a v : Nat} (h : memRead s a = some v) : accept (.peek a) s = respond s (.value v) := by
  simp [accept, acceptPeek, h]

theorem accept_setRange_of_not_refusedBy {nlo nhi vlo vhi : Nat} (h : ¬ refusedBy s (.setRange nlo nhi vlo vhi)) :
    accept (.setRange nlo nhi vlo vhi) s =
      respond { s with nounLo := nlo, nounHi := nhi, verbLo := vlo, verbHi := vhi } .done :=
  if_pos ((bounds_fit_iff_not_refusedBy s nlo nhi vlo vhi).mpr h)

theorem accept_search_of_not_refusedBy {target : Nat} (h : ¬ refusedBy s (.search target)) :
    accept (.search target) s = startSearch target s :=
  if_pos ((fits_eq_true_iff _ _).mpr h)

theorem resultOf_of_halted {v : Nat} (hhalt : s.runState = .halted) (hcell : memRead s resultAddr = some v) :
    resultOf s = .valid v := by
  simp [resultOf, hhalt, hcell]

theorem resultOf_of_not_halted (h : s.runState ≠ .halted) : resultOf s = .invalid := by
  cases hrun : s.runState with
  | halted => exact absurd hrun h
  | running => simp [resultOf, hrun]
  | faulted => simp [resultOf, hrun]

theorem resultOf_ne_refused (s : State) : resultOf s ≠ .refused := by
  by_cases hhalt : s.runState = .halted
  · cases hcell : memRead s resultAddr <;> simp [resultOf, hhalt, hcell]
  · simp [resultOf_of_not_halted hhalt]

/-- No command but a listed one answers `Refused`. -/
theorem accept_response_ne_refused {c : Command} (h : ¬ refusedBy s c) : (accept c s).response ≠ some .refused := by
  cases c with
  | load image => simp [accept_load_of_not_refusedBy h]
  | patch p v =>
    rw [accept_patch_of_not_refusedBy h]
    cases hb : inBounds s p <;> simp
  | run => simp [accept_run_of_running (not_not.mp h)]
  | result => simpa [accept, acceptResult] using resultOf_ne_refused s
  | peek a => simp [accept_peek_of_memRead (memRead_of_inBounds (Nat.not_le.mp h))]
  | get r => simp [accept, acceptGet]
  | setRange nlo nhi vlo vhi => simp [accept_setRange_of_not_refusedBy h]
  | reset => simp [accept, acceptReset, State.initial]
  | search target =>
    rw [accept_search_of_not_refusedBy h]
    obtain ⟨-, e⟩ | ⟨-, e⟩ := startSearch_cases target s <;> simp [e]

/-! ## The step that accepts a command -/

/-- Whether a command is listed does not depend on the commands that wait behind it. -/
@[simp] theorem refusedBy_withPending (s : State) (rest : List Command) (c : Command) :
    refusedBy (withPending s rest) c ↔ refusedBy s c := by
  cases c <;> exact Iff.rfl

theorem step_of_refusedBy {c : Command} {rest : List Command} (hc : nextCommand s c rest) (h : refusedBy s c) :
    step s = .next { s with pending := rest, response := some .refused } := by
  rw [step_of_nextCommand hc, accept_of_refusedBy ((refusedBy_withPending s rest c).mpr h)]
  rfl

/-- While a command is in progress the commands that wait are left waiting. -/
theorem step_pending_of_not_quiescent {t : State} (hq : quiescent s = false) (h : step s = .next t) :
    t.pending = s.pending := by
  obtain ⟨-, hr, e⟩ | ⟨-, -, rfl⟩ | ⟨-, n, v, -, rfl⟩ | ⟨-, n, v, -, -, rfl⟩ | ⟨-, n, v, -, rfl⟩ | ⟨hq', -⟩ |
    ⟨c, rest, ⟨hq', -⟩, -⟩ := step_next_cases h
  · obtain ⟨-, -, -, -, -, -, hpending, -⟩ := sequencerStep_frame hr e
    exact hpending
  · simp
  · obtain ⟨mem, runState, fcause, finfo, e, -⟩ := setUpCandidate_cases n v s
    simp [loadPhase, e]
  · simp
  · obtain ⟨-, e⟩ | ⟨-, f, -, ⟨-, e⟩ | ⟨-, -, e⟩ | ⟨-, -, e⟩⟩ := checkPhase_cases n v s <;> simp [e]
  · simp [hq] at hq'
  · simp [hq] at hq'

/-! ## A run ends -/

/-- ADD and MUL decode from four cells of memory. -/
theorem window_le_length_of_decode {mem : List Nat} {ip a b d : Nat}
    (h : decode mem ip = .instr (.add a b d) ∨ decode mem ip = .instr (.mul a b d)) : ip + stride ≤ mem.length := by
  have hcells : ∃ o x y z rest, mem.drop ip = o :: x :: y :: z :: rest := by
    obtain ⟨-, e⟩ | ⟨rest, -, e⟩ | ⟨op, rest, -, -, -, e⟩ | ⟨x, y, z, rest, hw, -⟩ | ⟨x, y, z, rest, hw, -⟩ |
      ⟨op, rest, -, -, -, -, e⟩ := decodeWindow_cases (mem.drop ip)
    case inr.inr.inr.inl => exact ⟨_, x, y, z, rest, hw⟩
    case inr.inr.inr.inr.inl => exact ⟨_, x, y, z, rest, hw⟩
    all_goals
      rw [decode, e] at h
      simp at h
  obtain ⟨o, x, y, z, rest, hw⟩ := hcells
  have hlen : mem.length - ip = rest.length + 4 := by
    rw [← List.length_drop, hw]
    rfl
  simp only [stride]
  omega

/-- A step that stays in `Running` is an ADD or a MUL, and it goes on to the cells after its own. -/
theorem sequencerStep_running {t : State} (hr : s.runState = .running) (h : sequencerStep s = .next t)
    (ht : t.runState = .running) : t.ip = s.ip + stride ∧ s.ip + stride ≤ s.mem.length := by
  obtain ⟨cause, info, slot, rfl⟩ | ⟨rfl, -⟩ | ⟨op, a, b, d, x, y, -, -, -, -, rfl, hdec⟩ := sequencerStep_next_cases hr h
  · simp at ht
  · simp at ht
  · refine ⟨rfl, window_le_length_of_decode (a := a) (b := b) (d := d) ?_⟩
    cases op with
    | add => exact .inl hdec
    | mul => exact .inr hdec

theorem running_of_runFuel_running {k : Nat} (h : (runFuel k s).runState = .running) : s.runState = .running := by
  by_contra hr
  exact hr (runFuel_of_not_running k hr ▸ h)

/-- A run still in `Running` has passed over four cells of memory with every step. -/
theorem runFuel_running {k : Nat} (h : (runFuel (k + 1) s).runState = .running) :
    s.ip + stride * (k + 1) ≤ s.mem.length := by
  induction k generalizing s with
  | zero =>
    have hr := running_of_runFuel_running h
    obtain ⟨t, ht⟩ := sequencerStep_total hr
    rw [runFuel_succ_of_next 0 hr ht] at h
    exact (sequencerStep_running hr ht h).2
  | succ k ih =>
    have hr := running_of_runFuel_running h
    obtain ⟨t, ht⟩ := sequencerStep_total hr
    rw [runFuel_succ_of_next (k + 1) hr ht] at h
    obtain ⟨hip, -⟩ := sequencerStep_running hr ht (running_of_runFuel_running h)
    have hrest := ih h
    rw [hip, sequencerStep_length hr ht] at hrest
    calc s.ip + stride * (k + 1 + 1) = s.ip + stride + stride * (k + 1) := by ring
      _ ≤ s.mem.length := hrest

/-- The steps of `runToEnd` are enough for a run from any `IP` (41_halt_and_sequencing.md rule R148). -/
theorem runToEnd_not_running (s : State) : (runToEnd s).runState ≠ .running := by
  intro h
  have hpassed : s.ip + 4 * (s.mem.length / 4 + 1) ≤ s.mem.length := runFuel_running h
  omega

theorem sequencerStarted_of_searcherUnchanged {t : State} (h : searcherUnchanged s t) :
    sequencerStarted t = sequencerStarted s := by
  obtain ⟨-, -, -, hphase, -, hactive, -⟩ := h
  simp only [sequencerStarted, hphase, hactive]

/-- With the sequencer started, the machine's steps are the run's. -/
theorem exists_run_eq_runFuel (k : Nat) (hs : sequencerStarted s = true) :
    ∃ j, Sys2Proof.core.run j s = .next (runFuel k s) := by
  induction k generalizing s with
  | zero => exact ⟨0, rfl⟩
  | succ k ih =>
    by_cases hr : s.runState = .running
    · obtain ⟨t, ht⟩ := sequencerStep_total hr
      obtain ⟨j, hj⟩ := ih ((sequencerStarted_of_searcherUnchanged (sequencerStep_frame hr ht)).trans hs)
      refine ⟨j + 1, ?_⟩
      rw [run_succ_of_next j ((step_of_started hs hr).trans ht), runFuel_succ_of_next k hr ht, hj]
    · exact ⟨0, congrArg _ (runFuel_of_not_running (k + 1) hr).symm⟩

theorem step_of_run_ended (ha : s.runActive = true) (hr : s.runState ≠ .running) : step s = .next (finishRun s) := by
  simp [step, coreStep, ha, hr]

/-- A RUN in progress is carried to its end and answered. -/
theorem exists_run_eq_finishRun (ha : s.runActive = true) :
    ∃ j, Sys2Proof.core.run j s = .next (finishRun (runToEnd s)) := by
  obtain ⟨-, -, -, -, -, hactive, -⟩ := (runToEnd_frame s).1
  have hend : step (runToEnd s) = .next (finishRun (runToEnd s)) :=
    step_of_run_ended (hactive.trans ha) (runToEnd_not_running s)
  obtain ⟨j, hj⟩ := exists_run_eq_runFuel (s.memLen / stride + 1) ((sequencerStarted_iff s).mpr (.inl ha))
  exact ⟨j + 1, run_trans j 1 hj (run_succ_of_next 0 hend)⟩

/-- The two ends of a run, with RUN's answer to each (42_host_commands.md rule R164). -/
theorem finishRun_answers (h : s.runState ≠ .running) :
    (finishRun s).runState = .halted ∧ (finishRun s).response = some .halted ∨
    (finishRun s).runState = .faulted ∧
      (finishRun s).response = some (.runFaulted (finishRun s).fcause (finishRun s).finfo (finishRun s).fslot) := by
  cases hr : s.runState with
  | running => exact absurd hr h
  | halted => exact .inl (by simp [runResponse, hr])
  | faulted => exact .inr (by simp [runResponse, hr])

end HostCommands

/-! ## The obligations -/

/-- Settles O31: by the list of refusals, and the effect of a LOAD that it does not name. -/
theorem loadCommand : Obligations.LoadCommand := by
  intro s image rest hc
  refine ⟨fun h => step_of_refusedBy hc h, fun hlong hlarge => ?_⟩
  have hlisted : ¬ refusedBy (withPending s rest) (.load image) := by
    rintro (h | ⟨v, hv, h⟩)
    · exact hlong h
    · exact hlarge v hv h
  refine ⟨_, (step_of_nextCommand hc).trans (congrArg _ (accept_load_of_not_refusedBy hlisted)), ?_⟩
  simp [entry, boundsUnchanged]

/-- Settles O32: by the list of refusals and the bounds of the cell; PatchOOB puts the RUN that follows on the list. -/
theorem patchCommand : Obligations.PatchCommand := by
  intro s p v rest hc
  have hlisted (hr : s.runState = .running) (hv : ¬ tooLarge s.cfg v) : ¬ refusedBy (withPending s rest) (.patch p v) :=
    not_or.mpr ⟨not_not.mpr hr, hv⟩
  refine ⟨fun h => step_of_refusedBy hc h, fun hr hv hp => ?_, fun hr hv hp => ?_⟩
  · rw [step_of_nextCommand hc, accept_patch_of_inBounds (hlisted hr hv) hp]
    rfl
  · refine ⟨_, ?_, rfl, ?_⟩
    · rw [step_of_nextCommand hc, accept_patch_of_outOfBounds (hlisted hr hv) hp]
      rfl
    · rintro rest' rfl
      exact step_of_refusedBy (c := .run) ⟨hc.1, rfl⟩ (by simp [refusedBy, faultedWith])

/-- Settles O33: the acceptance, the run to its end, and the step that answers. -/
theorem runCommandReachesItsEnd : Obligations.RunCommandReachesItsEnd := by
  intro s rest hc
  refine ⟨fun h => step_of_refusedBy hc h, fun hr => ?_⟩
  have hstep := (step_of_nextCommand hc).trans (congrArg _ (accept_run_of_running (s := withPending s rest) hr))
  generalize hs₀ : { withPending s rest with runActive := true, response := none } = s₀ at hstep
  obtain ⟨j, hj⟩ : ∃ j, Sys2Proof.core.run j s₀ = .next (finishRun (runToEnd s₀)) := exists_run_eq_finishRun (hs₀ ▸ rfl)
  have hmachine : sameMachine (runToEnd s) (runToEnd s₀) :=
    sameMachine_runToEnd (hs₀ ▸ ⟨rfl, rfl, rfl, rfl, rfl, rfl, rfl⟩)
  obtain ⟨hbase, hbounds, hsearch, hphase, -, -, hpending, -⟩ := (runToEnd_frame s₀).1
  obtain ⟨-, hidle⟩ := (quiescent_iff s).mp hc.1
  subst hs₀
  refine ⟨j + 1, _, (run_succ_of_next j hstep).trans hj, ?_, hpending, hmachine, hbase, hbounds, hsearch,
    finishRun_answers (runToEnd_not_running _)⟩
  exact (quiescent_iff _).mpr ⟨rfl, hidle.imp hphase.trans hphase.trans⟩

/-- Settles O39: a listed command is refused, and no other answers `Refused`. -/
theorem refusalsAreExactlyTheListed : Obligations.RefusalsAreExactlyTheListed := by
  refine ⟨fun s t c rest hc hstep => ?_, fun s t hq hstep => step_pending_of_not_quiescent hq hstep⟩
  by_cases h : refusedBy s c
  · rw [step_of_refusedBy hc h] at hstep
    cases hstep
    exact ⟨iff_of_true rfl h, fun _ => rfl⟩
  · rw [step_of_nextCommand hc] at hstep
    cases hstep
    have hresponse := accept_response_ne_refused (mt (refusedBy_withPending s rest c).mp h)
    exact ⟨iff_of_false hresponse h, fun h' => absurd h' h⟩

/-- Settles O34; after a search that ended `Found` the run state is `Halted` and cell 0 holds the target, by the invariant. -/
theorem resultCommand : Obligations.ResultCommand := by
  intro s rest hc
  have hvalid (v : Nat) (hhalt : s.runState = .halted) (hcell : memRead s 0 = some v) :
      step s = .next { s with pending := rest, response := some (.valid v) } := by
    rw [step_of_nextCommand hc, accept, acceptResult, resultOf_of_halted (s := withPending s rest) hhalt hcell]
    rfl
  refine ⟨hvalid, fun hhalt => ?_, fun hinv hfound => ?_⟩
  · rw [step_of_nextCommand hc, accept, acceptResult, resultOf_of_not_halted (s := withPending s rest) hhalt]
    rfl
  · obtain ⟨-, hhalt, -, hcell⟩ := hinv.foundMeansMatch hfound
    exact hvalid s.target hhalt hcell

/-- Settles O35: the cell is read, or the address is on the list of refusals. -/
theorem peekCommand : Obligations.PeekCommand := by
  intro s a rest hc
  refine ⟨fun v hcell => ?_, fun h => step_of_refusedBy hc h⟩
  rw [step_of_nextCommand hc, accept_peek_of_memRead (s := withPending s rest) hcell]
  rfl

/-- Settles O36: `readRegister` reads each register by its code. -/
theorem getCommand : Obligations.GetCommand := by
  intro s r rest hc
  exact ⟨readRegister s r, step_of_nextCommand hc, by cases r <;> rfl⟩

/-- Settles O37: by the list of refusals, and the effect of a SETRANGE that it does not name. -/
theorem setRangeCommand : Obligations.SetRangeCommand := by
  intro s nlo nhi vlo vhi rest hc
  refine ⟨fun h => step_of_refusedBy hc h, fun hnlo hnhi hvlo hvhi => ?_⟩
  have hlisted : ¬ refusedBy (withPending s rest) (.setRange nlo nhi vlo vhi) := by
    rintro (h | h | h | h)
    · exact hnlo h
    · exact hnhi h
    · exact hvlo h
    · exact hvhi h
  rw [step_of_nextCommand hc, accept_setRange_of_not_refusedBy hlisted]
  rfl

/-- Settles O38: RESET and power-on both give `State.initial` of the build, but for the commands that wait. -/
theorem resetCommand : Obligations.ResetCommand := by
  intro t ht
  have hinitial : ∃ c rest, t = withPending (State.initial c) rest := by
    obtain ⟨s, rest, hc, hstep⟩ | ⟨c, rfl⟩ := ht
    · rw [step_of_nextCommand hc] at hstep
      cases hstep
      exact ⟨s.cfg, rest, rfl⟩
    · exact ⟨c, [], rfl⟩
  obtain ⟨c, rest, rfl⟩ := hinitial
  simp [State.initial]

end Sys2Proof.Machine

/-! # The whole search (43_search.md rules R182, R184, R188, R189 and R193)

A candidate's run is fixed by the parameters, the baseline and the pair, so what the loops of rule R182 do with a candidate
can be told from the state in which the search began. The phases of rule R197 are these loops unrolled: the phase names the
candidates still to try, and each operation of the algorithm overwrites the phase or carries it along. -/

namespace Sys2Proof.Machine

/-- Settles O41: `restore` is `clear` of the memory made the baseline, and `ENTRY` is 0. -/
theorem restoreMakesFreshMachine : Obligations.RestoreMakesFreshMachine :=
  fun _ => ⟨rfl, rfl⟩

/-! ## What no operation of a search writes -/

/-- What a candidate inherits (rule R193), and the fields of the host's interface: no operation of a search writes them. -/
def searchInputsUnchanged (s t : State) : Prop :=
  t.cfg = s.cfg ∧ t.base = s.base ∧ t.target = s.target ∧ boundsUnchanged s t ∧
    t.runActive = s.runActive ∧ t.pending = s.pending

theorem searchInputsUnchanged_refl (s : State) : searchInputsUnchanged s s := by
  simp [searchInputsUnchanged, boundsUnchanged]

theorem searchInputsUnchanged_trans {s t u : State} (h : searchInputsUnchanged s t) (h' : searchInputsUnchanged t u) :
    searchInputsUnchanged s u := by
  simp_all [searchInputsUnchanged, boundsUnchanged]

theorem searchInputsUnchanged_countFault {s t : State} (h : searchInputsUnchanged s t) :
    searchInputsUnchanged s (countFault t) := h

theorem searchInputsUnchanged_toPhase {s t : State} (p : Phase) (h : searchInputsUnchanged s t) :
    searchInputsUnchanged s (toPhase t p) := h

theorem searchInputsUnchanged_finishFound {s t : State} (n v : Nat) (h : searchInputsUnchanged s t) :
    searchInputsUnchanged s (finishFound n v t) := h

theorem tryCandidate_searchInputs (n v : Nat) (s : State) : searchInputsUnchanged s (tryCandidate n v s) := by
  obtain ⟨hbase, hbounds, ⟨htarget, -⟩, -, hcfg, hactive, hpending, -⟩ := tryCandidate_frame n v s
  exact ⟨hcfg, hbase, htarget, hbounds, hactive, hpending⟩

@[simp] theorem tryCandidate_answer (n v : Nat) (s : State) : (tryCandidate n v s).answer = s.answer := by
  obtain ⟨-, -, ⟨-, -, -, -, hanswer, -⟩, -⟩ := tryCandidate_frame n v s
  exact hanswer

/-- The loops keep the inputs and end in the phase `Done`. -/
theorem searchOver_frame (cs : List (Nat × Nat)) (s : State) :
    searchInputsUnchanged s (searchOver cs s) ∧ (searchOver cs s).phase = .done := by
  induction cs generalizing s with
  | nil => exact ⟨searchInputsUnchanged_refl s, rfl⟩
  | cons p rest ih =>
    obtain ⟨n, v⟩ := p
    have htry := tryCandidate_searchInputs n v s
    cases hm : candidateMatches (tryCandidate n v s) with
    | true =>
      rw [searchOver_cons_of_match rest hm]
      exact ⟨searchInputsUnchanged_finishFound n v htry, finishFound_phase _ n v⟩
    | false =>
      rw [searchOver_cons_of_not_match rest hm]
      obtain ⟨hrest, hdone⟩ := ih (countFault (tryCandidate n v s))
      exact ⟨searchInputsUnchanged_trans (searchInputsUnchanged_countFault htry) hrest, hdone⟩

/-- Settles O52: the isolation of candidates, and the frames of a candidate and of the loops. -/
theorem candidatesAreIsolated : Obligations.CandidatesAreIsolated := by
  refine ⟨fun s s' n v hcfg hbase => sameMachine_tryCandidate n v hcfg.symm hbase.symm, fun s n v => ?_, fun s target => ?_⟩
  · obtain ⟨-, hbase, htarget, hbounds, -⟩ := tryCandidate_searchInputs n v s
    exact ⟨hbase, htarget, hbounds⟩
  · obtain ⟨⟨-, hbase, -, hbounds, -⟩, -⟩ := searchOver_frame (candidates s) (beginSearch target s)
    exact ⟨hbase, hbounds⟩

/-! ## The loops pass over the candidates that do not match -/

theorem candidateMatches_tryCandidate_eq (n v : Nat) {s t : State} (h : searchInputsUnchanged s t) :
    candidateMatches (tryCandidate n v t) = candidateMatches (tryCandidate n v s) := by
  obtain ⟨hcfg, hbase, htarget, -⟩ := h
  have hmachine := sameMachine_tryCandidate n v hcfg hbase
  obtain ⟨-, -, -, hrun, -⟩ := id hmachine
  obtain ⟨-, -, hs, -⟩ := tryCandidate_searchInputs n v s
  obtain ⟨-, -, ht, -⟩ := tryCandidate_searchInputs n v t
  rw [candidateMatches, candidateMatches, hrun, memRead_eq_of_sameMachine _ hmachine, hs, ht, htarget]

/-- Candidates none of which matches leave the rest of the search to a state with the same inputs and the same `ANSWER`. -/
theorem searchOver_append_of_not_match (failed rest : List (Nat × Nat)) (s : State)
    (h : ∀ p ∈ failed, candidateMatches (tryCandidate p.1 p.2 s) = false) :
    ∃ t, searchInputsUnchanged s t ∧ t.answer = s.answer ∧ searchOver (failed ++ rest) s = searchOver rest t := by
  induction failed generalizing s with
  | nil => exact ⟨s, searchInputsUnchanged_refl s, rfl, rfl⟩
  | cons p failed ih =>
    obtain ⟨n, v⟩ := p
    obtain ⟨hfirst, hothers⟩ := List.forall_mem_cons.mp h
    have htry : searchInputsUnchanged s (countFault (tryCandidate n v s)) :=
      searchInputsUnchanged_countFault (tryCandidate_searchInputs n v s)
    obtain ⟨t, ht, hanswer, hrest⟩ := ih (countFault (tryCandidate n v s)) fun p hp =>
      (candidateMatches_tryCandidate_eq p.1 p.2 htry).trans (hothers p hp)
    refine ⟨t, searchInputsUnchanged_trans htry ht, by simpa using hanswer, ?_⟩
    rw [List.cons_append, searchOver_cons_of_not_match _ hfirst, hrest]

/-- What a search that ends at its first match leaves and reports (rule R188). -/
theorem finishFound_reports (n v : Nat) {s : State} (h : candidateMatches s = true) :
    (finishFound n v s).sstate = .found ∧ (finishFound n v s).noun = s.noun ∧ (finishFound n v s).verb = s.verb ∧
      (finishFound n v s).answer = 100 * n + v ∧ (finishFound n v s).response = some (.found n v (100 * n + v)) ∧
      (finishFound n v s).runState = .halted ∧ memRead (finishFound n v s) 0 = some s.target ∧
      sameMachine s (finishFound n v s) := by
  obtain ⟨hhalted, hcell⟩ := (candidateMatches_eq_true_iff s).mp h
  exact ⟨rfl, rfl, rfl, rfl, rfl, hhalted, hcell, rfl, rfl, rfl, rfl, rfl, rfl, rfl⟩

theorem sameMachine_trans {s t u : State} (h : sameMachine s t) (h' : sameMachine t u) : sameMachine s u := by
  simp_all [sameMachine, recordUnchanged]

/-- Settles O49: the loops pass over the candidates before number `k` and end at it. -/
theorem searchReportsFirstMatch : Obligations.SearchReportsFirstMatch := by
  intro s target k n v hk hmatch hbefore
  obtain ⟨hlt, hget⟩ := List.getElem?_eq_some_iff.mp hk
  have hsplit : candidates s = (candidates s).take k ++ (n, v) :: (candidates s).drop (k + 1) := by
    rw [← hget, ← List.drop_eq_getElem_cons hlt, List.take_append_drop]
  have hfailed : ∀ p ∈ (candidates s).take k,
      candidateMatches (tryCandidate p.1 p.2 (beginSearch target s)) = false := by
    intro p hp
    obtain ⟨j, hj, rfl⟩ := List.mem_take_iff_getElem.mp hp
    exact hbefore j _ _ (by omega) (List.getElem?_eq_getElem (by omega))
  obtain ⟨t, ht, -, hsearch⟩ := searchOver_append_of_not_match _ ((n, v) :: (candidates s).drop (k + 1)) _ hfailed
  have hmatch' := (candidateMatches_tryCandidate_eq n v ht).trans hmatch
  rw [← hsplit, searchOver_cons_of_match _ hmatch'] at hsearch
  have hwhole : searchWhole target s = finishFound n v (tryCandidate n v t) := hsearch
  obtain ⟨hcfg, hbase, htarget, -⟩ := ht
  obtain ⟨-, -, htry, -⟩ := tryCandidate_searchInputs n v t
  have hreports := finishFound_reports n v hmatch'
  rw [← hwhole, tryCandidate_noun, tryCandidate_verb, htry, htarget] at hreports
  obtain ⟨hsstate, hnoun, hverb, hanswer, hresponse, hhalted, hcell, hmachine⟩ := hreports
  exact ⟨hsstate, hnoun, hverb, hanswer, hresponse, hhalted, hcell,
    sameMachine_trans (sameMachine_tryCandidate n v hcfg hbase) hmachine⟩

/-! ## The order of the candidates (43_search.md rule R183) -/

theorem ascending_of_le {lo hi : Nat} (h : lo ≤ hi) : ascending lo hi = lo :: ascending (lo + 1) hi := by
  rw [ascending, ascending, Nat.add_sub_add_right, Nat.sub_add_comm h, List.range'_succ]

theorem ascending_of_lt {lo hi : Nat} (h : hi < lo) : ascending lo hi = [] := by
  rw [ascending, Nat.sub_eq_zero_of_le h, List.range'_zero]

/-- The last of the ascending values is the upper bound. -/
theorem exists_ascending_eq_append {lo hi : Nat} (h : lo ≤ hi) : ∃ init, ascending lo hi = init ++ [hi] := by
  refine ⟨List.range' lo (hi - lo), ?_⟩
  rw [ascending, Nat.sub_add_comm h, List.range'_1_concat, Nat.add_sub_cancel' h]

/-- The candidates of the nouns from `n` on, each noun with every verb of the range. -/
def candidatesFromNoun (s : State) (n : Nat) : List (Nat × Nat) :=
  (ascending n s.nounHi).flatMap fun n => (ascending s.verbLo s.verbHi).map fun v => (n, v)

/-- The candidates from `(n, v)` on, in the order of trial. -/
def candidatesFrom (s : State) (n v : Nat) : List (Nat × Nat) :=
  ((ascending v s.verbHi).map fun v => (n, v)) ++ candidatesFromNoun s (n + 1)

theorem candidatesFromNoun_of_le {s : State} {n : Nat} (h : n ≤ s.nounHi) :
    candidatesFromNoun s n = candidatesFrom s n s.verbLo := by
  rw [candidatesFromNoun, ascending_of_le h, List.flatMap_cons]
  rfl

theorem candidatesFromNoun_of_lt {s : State} {n : Nat} (h : s.nounHi < n) : candidatesFromNoun s n = [] := by
  rw [candidatesFromNoun, ascending_of_lt h, List.flatMap_nil]

theorem candidates_eq_candidatesFrom {s : State} (h : s.nounLo ≤ s.nounHi) :
    candidates s = candidatesFrom s s.nounLo s.verbLo :=
  candidatesFromNoun_of_le h

theorem candidates_of_rangeEmpty {s : State} (h : rangeEmpty s = true) : candidates s = [] := by
  obtain hnoun | hverb := (rangeEmpty_eq_true_iff s).mp h
  · exact candidatesFromNoun_of_lt hnoun
  · simp [candidates, ascending_of_lt hverb]

/-- The last candidate is the pair of the upper bounds. -/
theorem exists_candidates_eq_append {s : State} (hnoun : s.nounLo ≤ s.nounHi) (hverb : s.verbLo ≤ s.verbHi) :
    ∃ init, candidates s = init ++ [(s.nounHi, s.verbHi)] := by
  obtain ⟨nouns, hnouns⟩ := exists_ascending_eq_append hnoun
  obtain ⟨verbs, hverbs⟩ := exists_ascending_eq_append hverb
  simp [candidates, hnouns, hverbs, ← List.append_assoc]

theorem exists_candidatesFrom_eq_cons {s : State} (n : Nat) {v : Nat} (hv : v ≤ s.verbHi) :
    ∃ rest, candidatesFrom s n v = (n, v) :: rest := by
  rw [candidatesFrom, ascending_of_le hv]
  exact ⟨_, rfl⟩

/-- Within a noun the next candidate has the next verb. -/
theorem candidatesFrom_of_verb_lt {s : State} (n : Nat) {v : Nat} (hv : v < s.verbHi) :
    candidatesFrom s n v = (n, v) :: candidatesFrom s n (v + 1) := by
  rw [candidatesFrom, ascending_of_le hv.le, List.map_cons, List.cons_append, candidatesFrom]

/-- After the last verb of a noun the next noun's candidates follow, if there are any. -/
theorem candidatesFrom_verbHi (s : State) (n : Nat) :
    candidatesFrom s n s.verbHi = (n, s.verbHi) :: candidatesFromNoun s (n + 1) := by
  rw [candidatesFrom, ascending_of_le le_rfl, ascending_of_lt (Nat.lt_succ_self _)]
  rfl

theorem candidatesFrom_of_boundsUnchanged {s t : State} (h : boundsUnchanged s t) (n v : Nat) :
    candidatesFrom t n v = candidatesFrom s n v := by
  obtain ⟨-, hnounHi, hverbLo, hverbHi⟩ := h
  simp only [candidatesFrom, candidatesFromNoun, hnounHi, hverbLo, hverbHi]

theorem inRange_of_boundsUnchanged {s t : State} {n v : Nat} (h : boundsUnchanged s t) (hr : inRange s n v) :
    inRange t n v := by
  obtain ⟨hnounLo, hnounHi, hverbLo, hverbHi⟩ := h
  rwa [inRange, hnounLo, hnounHi, hverbLo, hverbHi]

section ExhaustedSearch

variable {s : State} {target : Nat}

/-- A search none of whose candidates matches ends from a state whose `ANSWER` is still 0. -/
theorem searchWhole_eq_finishNotFound
    (h : ∀ p ∈ candidates s, candidateMatches (tryCandidate p.1 p.2 (beginSearch target s)) = false) :
    ∃ t, t.answer = 0 ∧ searchWhole target s = finishNotFound t := by
  obtain ⟨t, -, hanswer, hsearch⟩ := searchOver_append_of_not_match (candidates s) [] _ h
  rw [List.append_nil] at hsearch
  exact ⟨t, hanswer, hsearch⟩

/-- Over a range that is not empty it ends from the trial of the pair of the upper bounds. -/
theorem searchWhole_eq_finishNotFound_of_last (hnoun : s.nounLo ≤ s.nounHi) (hverb : s.verbLo ≤ s.verbHi)
    (h : ∀ p ∈ candidates s, candidateMatches (tryCandidate p.1 p.2 (beginSearch target s)) = false) :
    ∃ t, searchInputsUnchanged (beginSearch target s) t ∧
      searchWhole target s = finishNotFound (countFault (tryCandidate s.nounHi s.verbHi t)) := by
  obtain ⟨init, hinit⟩ := exists_candidates_eq_append hnoun hverb
  rw [hinit] at h
  obtain ⟨t, ht, -, hsearch⟩ := searchOver_append_of_not_match init [(s.nounHi, s.verbHi)] _
    fun p hp => h p (List.mem_append_left _ hp)
  have hlast := h (s.nounHi, s.verbHi) (List.mem_append_right _ (List.mem_singleton_self _))
  rw [← hinit, searchOver_cons_of_not_match [] ((candidateMatches_tryCandidate_eq _ _ ht).trans hlast)] at hsearch
  exact ⟨t, ht, hsearch⟩

/-- The end of an exhausted search leaves the Machine. -/
theorem sameMachine_finishNotFound_countFault {u t : State} (h : sameMachine u t) :
    sameMachine u (finishNotFound (countFault t)) := h

end ExhaustedSearch

/-- Settles O50: by the two lemmas above; `SFCNT` is that of the search's count, over all the candidates. -/
theorem exhaustedSearchReportsNotFound : Obligations.ExhaustedSearchReportsNotFound := by
  intro s target hnone
  have hfailed : ∀ p ∈ candidates s, candidateMatches (tryCandidate p.1 p.2 (beginSearch target s)) = false :=
    fun p hp => hnone p.1 p.2 hp
  obtain ⟨t, hanswer, hwhole⟩ := searchWhole_eq_finishNotFound hfailed
  have hsstate : (searchWhole target s).sstate = .notFound := by rw [hwhole, finishNotFound_sstate]
  refine ⟨hsstate, by rwa [hwhole], by rw [hwhole, finishNotFound_response], ?_, fun hnoun hverb => ?_⟩
  · obtain ⟨k, -, hcount, ⟨-, rfl⟩ | ⟨hfound, -⟩⟩ := sfcntCountsFaultedCandidates s target
    · rw [hcount, List.take_length]
    · rw [hsstate] at hfound
      contradiction
  · obtain ⟨u, ⟨hcfg, hbase, -⟩, hlast⟩ := searchWhole_eq_finishNotFound_of_last hnoun hverb hfailed
    rw [hlast]
    exact ⟨by simp, by simp,
      sameMachine_finishNotFound_countFault (sameMachine_tryCandidate s.nounHi s.verbHi hcfg hbase)⟩

/-! ## The phase does not matter to the algorithm -/

/-- Two ends of one Machine, whose frames differ in the phase from which they came, differ in the phase. -/
theorem eq_toPhase_of_frames {s u t : State} {p : Phase} (hmachine : sameMachine u t) (hu : searcherUnchanged s u)
    (ht : searcherUnchanged (toPhase s p) t) : t = toPhase u p := by
  cases t
  simp_all [sameMachine, recordUnchanged, searcherUnchanged, boundsUnchanged, searchUnchanged, toPhase]

/-- A run carries the phase along. -/
theorem runToEnd_toPhase (s : State) (p : Phase) : runToEnd (toPhase s p) = toPhase (runToEnd s) p :=
  eq_toPhase_of_frames (sameMachine_runToEnd ⟨rfl, rfl, rfl, rfl, rfl, rfl, rfl⟩) (runToEnd_frame s).1
    (runToEnd_frame (toPhase s p)).1

/-- A candidate's trial carries the phase along. -/
theorem tryCandidate_toPhase (n v : Nat) (s : State) (p : Phase) :
    tryCandidate n v (toPhase s p) = toPhase (tryCandidate n v s) p :=
  eq_toPhase_of_frames (sameMachine_tryCandidate n v rfl rfl) (tryCandidate_frame n v s)
    (tryCandidate_frame n v (toPhase s p))

/-- Every row of `Check` overwrites the phase. -/
theorem checkPhase_toPhase (n v : Nat) (s : State) (p : Phase) : checkPhase n v (toPhase s p) = checkPhase n v s := rfl

theorem candidateMatches_toPhase (s : State) (p : Phase) : candidateMatches (toPhase s p) = candidateMatches s := rfl

theorem finishFound_toPhase (n v : Nat) (s : State) (p : Phase) : finishFound n v (toPhase s p) = finishFound n v s := rfl

theorem countFault_toPhase (s : State) (p : Phase) : countFault (toPhase s p) = toPhase (countFault s) p := rfl

/-- The loops overwrite the phase when they end. -/
theorem searchOver_toPhase (cs : List (Nat × Nat)) (s : State) (p : Phase) :
    searchOver cs (toPhase s p) = searchOver cs s := by
  induction cs generalizing s with
  | nil => rfl
  | cons c rest ih =>
    obtain ⟨n, v⟩ := c
    cases hm : candidateMatches (tryCandidate n v s) with
    | true =>
      have hm' : candidateMatches (tryCandidate n v (toPhase s p)) = true := by
        rwa [tryCandidate_toPhase, candidateMatches_toPhase]
      rw [searchOver_cons_of_match rest hm, searchOver_cons_of_match rest hm', tryCandidate_toPhase, finishFound_toPhase]
    | false =>
      have hm' : candidateMatches (tryCandidate n v (toPhase s p)) = false := by
        rwa [tryCandidate_toPhase, candidateMatches_toPhase]
      rw [searchOver_cons_of_not_match rest hm, searchOver_cons_of_not_match rest hm', tryCandidate_toPhase,
        countFault_toPhase, ih]

/-! ## The phases are the loops, unrolled (43_search.md rule R197) -/

theorem step_of_load {s : State} {n v : Nat} (ha : s.runActive = false) (hp : s.phase = .load n v) :
    step s = .next (loadPhase n v s) := by
  simp [step, coreStep, ha, hp]

theorem step_of_run_ended_in_exec {s : State} {n v : Nat} (ha : s.runActive = false) (hp : s.phase = .exec n v)
    (hr : s.runState ≠ .running) : step s = .next (toPhase s (.check n v)) := by
  simp [step, coreStep, ha, hp, hr]

theorem step_of_check {s : State} {n v : Nat} (ha : s.runActive = false) (hp : s.phase = .check n v) :
    step s = .next (checkPhase n v s) := by
  simp [step, coreStep, ha, hp]

/-- A run that has ended in the phase `Exec` is seen to have ended, and is checked. -/
theorem run_two_of_exec {s : State} {n v : Nat} (ha : s.runActive = false) (hr : s.runState ≠ .running) :
    Sys2Proof.core.run 2 (toPhase s (.exec n v)) = .next (checkPhase n v s) := by
  have hexec := step_of_run_ended_in_exec (s := toPhase s (.exec n v)) ha rfl hr
  have hcheck := step_of_check (s := toPhase s (.check n v)) ha rfl
  exact (run_succ_of_next 1 hexec).trans
    ((run_succ_of_next 0 hcheck).trans (congrArg _ (checkPhase_toPhase n v s (.check n v))))

/-- The machine takes a candidate through `Load`, `Exec` and `Check`: its trial, and the check of where that ended. -/
theorem exists_run_eq_checkPhase {s : State} {n v : Nat} (ha : s.runActive = false) (hp : s.phase = .load n v) :
    ∃ k, Sys2Proof.core.run k s = .next (checkPhase n v (tryCandidate n v s)) := by
  obtain ⟨-, -, -, -, hactive, -⟩ := tryCandidate_searchInputs n v s
  have hended : (tryCandidate n v s).runState ≠ .running := runToEnd_not_running (setUpCandidate n v s)
  have hstarted : sequencerStarted (loadPhase n v s) = true := (sequencerStarted_iff _).mpr (.inr ⟨n, v, rfl⟩)
  obtain ⟨j, hj⟩ := exists_run_eq_runFuel ((loadPhase n v s).memLen / stride + 1) hstarted
  have hrun : Sys2Proof.core.run j (loadPhase n v s) = .next (toPhase (tryCandidate n v s) (.exec n v)) :=
    hj.trans (congrArg _ (runToEnd_toPhase (setUpCandidate n v s) (.exec n v)))
  exact ⟨j + 2 + 1, (run_succ_of_next _ (step_of_load ha hp)).trans
    (run_trans j 2 hrun (run_two_of_exec (hactive.trans ha) hended))⟩

/-- The check of a candidate ends the search as the loops do, or goes on to the candidate that is next in them. -/
theorem checkPhase_tryCandidate_cases {s : State} {n v : Nat} (h : inRange s n v) :
    checkPhase n v (tryCandidate n v s) = searchOver (candidatesFrom s n v) s ∨
    ∃ n' v', inRange s n' v' ∧ candidatesFrom s n v = (n, v) :: candidatesFrom s n' v' ∧
      candidateMatches (tryCandidate n v s) = false ∧
      checkPhase n v (tryCandidate n v s) = toPhase (countFault (tryCandidate n v s)) (.load n' v') := by
  obtain ⟨-, -, -, ⟨-, hnounHi, hverbLo, hverbHi⟩, -⟩ := tryCandidate_searchInputs n v s
  obtain ⟨hn, hn', hv, hv'⟩ := h
  cases hm : candidateMatches (tryCandidate n v s) with
  | true =>
    obtain ⟨rest, hrest⟩ := exists_candidatesFrom_eq_cons n hv'
    rw [hrest, searchOver_cons_of_match rest hm, checkPhase, if_pos hm]
    exact .inl rfl
  | false =>
    rw [checkPhase, if_neg (by simp [hm]), hverbHi, hnounHi, hverbLo]
    obtain hlt | rfl := hv'.lt_or_eq
    · exact .inr ⟨n, v + 1, ⟨hn, hn', by omega, hlt⟩, candidatesFrom_of_verb_lt n hlt, rfl, if_pos hlt⟩
    · rw [if_neg (lt_irrefl _), candidatesFrom_verbHi]
      obtain hlt | rfl := hn'.lt_or_eq
      · rw [candidatesFromNoun_of_le hlt]
        exact .inr ⟨n + 1, s.verbLo, ⟨by omega, hlt, le_rfl, hv⟩, rfl, rfl, if_pos hlt⟩
      · rw [candidatesFromNoun_of_lt (Nat.lt_succ_self _), searchOver_cons_of_not_match [] hm]
        exact .inl (if_neg (lt_irrefl _))

/-- From the phase `Load` of a candidate the machine runs the loops over it and the candidates after it. -/
theorem exists_run_eq_searchOver (cs : List (Nat × Nat)) {s : State} {n v : Nat} (ha : s.runActive = false)
    (hp : s.phase = .load n v) (hr : inRange s n v) (hcs : candidatesFrom s n v = cs) :
    ∃ k, Sys2Proof.core.run k s = .next (searchOver cs s) := by
  induction cs generalizing s n v with
  | nil =>
    obtain ⟨-, -, -, hv⟩ := hr
    obtain ⟨rest, hrest⟩ := exists_candidatesFrom_eq_cons n hv
    exact absurd (hcs.symm.trans hrest) (by simp)
  | cons c rest ih =>
    obtain ⟨j, hj⟩ := exists_run_eq_checkPhase ha hp
    obtain e | ⟨n', v', hr', hnext, hm, e⟩ := checkPhase_tryCandidate_cases hr
    · exact ⟨j, hj.trans (congrArg _ (hcs ▸ e))⟩
    · obtain ⟨rfl, hrest⟩ := List.cons.inj (hnext.symm.trans hcs)
      obtain ⟨-, -, -, hbounds, hactive, -⟩ := searchInputsUnchanged_toPhase (.load n' v')
        (searchInputsUnchanged_countFault (tryCandidate_searchInputs n v s))
      obtain ⟨k, hk⟩ := ih (hactive.trans ha) (toPhase_phase _ _)
        (inRange_of_boundsUnchanged hbounds hr') ((candidatesFrom_of_boundsUnchanged hbounds n' v').trans hrest)
      refine ⟨j + k, run_trans j k (hj.trans (congrArg _ e)) ?_⟩
      rw [hk, searchOver_toPhase, searchOver_cons_of_not_match rest hm]

/-- The machine accepts a SEARCH and runs its loops. -/
theorem exists_run_eq_searchWhole {s : State} {target : Nat} {rest : List Command}
    (hc : nextCommand s (.search target) rest) (hfit : ¬ tooLarge s.cfg target) :
    ∃ k, Sys2Proof.core.run k s = .next (searchWhole target (withPending s rest)) := by
  have hstep := (step_of_nextCommand hc).trans
    (congrArg _ (accept_search_of_not_refusedBy (s := withPending s rest) hfit))
  obtain ⟨hquiescent, -⟩ := hc
  obtain ⟨hactive, -⟩ := (quiescent_iff s).mp hquiescent
  generalize hs : withPending s rest = s₀ at hstep ⊢
  have hactive₀ : s₀.runActive = false := by rwa [← hs]
  cases hempty : rangeEmpty s₀ with
  | true =>
    rw [startSearch, if_pos hempty] at hstep
    refine ⟨1, (run_succ_of_next 0 hstep).trans ?_⟩
    rw [searchWhole, candidates_of_rangeEmpty hempty]
    rfl
  | false =>
    rw [startSearch, if_neg (by simp [hempty])] at hstep
    obtain ⟨hnoun, hverb⟩ := (rangeEmpty_eq_false_iff s₀).mp hempty
    obtain ⟨k, hk⟩ := exists_run_eq_searchOver (candidates s₀) (n := s₀.nounLo) (v := s₀.verbLo)
      (s := toPhase (beginSearch target s₀) (.load s₀.nounLo s₀.verbLo)) hactive₀ rfl
      ⟨le_rfl, hnoun, le_rfl, hverb⟩ (candidates_eq_candidatesFrom hnoun).symm
    refine ⟨k + 1, (run_succ_of_next k hstep).trans ?_⟩
    rw [hk, searchOver_toPhase, searchWhole]

/-- Settles O47: the search is carried to its end, where no command is in progress. -/
theorem searchCommandRefinesNestedLoops : Obligations.SearchCommandRefinesNestedLoops := by
  intro s target rest hc hfit
  obtain ⟨k, hk⟩ := exists_run_eq_searchWhole hc hfit
  obtain ⟨hquiescent, -⟩ := hc
  obtain ⟨hactive, -⟩ := (quiescent_iff s).mp hquiescent
  obtain ⟨⟨-, -, -, -, hkept, -⟩, hdone⟩ :=
    searchOver_frame (candidates (withPending s rest)) (beginSearch target (withPending s rest))
  exact ⟨k, hk, (quiescent_iff _).mpr ⟨hkept.trans hactive, .inr hdone⟩⟩

end Sys2Proof.Machine

/-! # No return from a fault (60_exceptions.md rule R223)

A step from a terminal state keeps the whole Machine, unless it is one of the three that go through the *clear* control of
41_halt_and_sequencing.md rule R151. -/

namespace Sys2Proof.Machine

section TerminalStates

variable {s t : State}

/-- The registers of the sequencer stand as the *clear* control leaves them (41_halt_and_sequencing.md rule R151). -/
def isCleared (t : State) : Prop :=
  t.runState = .running ∧ t.ip = 0 ∧ t.fcause = .none ∧ t.finfo = 0 ∧ t.fslot = .none

theorem isCleared_clear (s : State) : isCleared (clear s) := ⟨rfl, rfl, rfl, rfl, rfl⟩

theorem isCleared_loadImage (image : List Nat) (s : State) : isCleared (loadImage image s) :=
  isCleared_clear { s with mem := image, base := image }

theorem isCleared_acceptReset (s : State) : isCleared (acceptReset s) := ⟨rfl, rfl, rfl, rfl, rfl⟩

/-- A candidate begins with the registers clear, or stands at PatchOOB. -/
theorem isCleared_or_faulted_loadPhase (n v : Nat) (s : State) :
    isCleared (loadPhase n v s) ∨ (loadPhase n v s).runState = .faulted := by
  obtain ⟨mem, runState, fcause, finfo, e, -, ⟨rfl, rfl, rfl, -⟩ | ⟨rfl, -⟩, -⟩ := setUpCandidate_cases n v s
  · rw [loadPhase, e]
    exact .inl ⟨rfl, rfl, rfl, rfl, rfl⟩
  · rw [loadPhase, e]
    exact .inr rfl

theorem sameMachine_refl (s : State) : sameMachine s s := ⟨rfl, rfl, rfl, rfl, rfl, rfl, rfl⟩

/-- The check of a candidate writes registers of the search controller only. -/
theorem sameMachine_checkPhase (n v : Nat) (s : State) : sameMachine s (checkPhase n v s) := by
  obtain ⟨-, e⟩ | ⟨-, f, -, ⟨-, e⟩ | ⟨-, -, e⟩ | ⟨-, -, e⟩⟩ := checkPhase_cases n v s
  all_goals
    rw [e]
    exact sameMachine_refl s

theorem sameMachine_startSearch (target : Nat) (s : State) : sameMachine s (startSearch target s) := by
  obtain ⟨-, e⟩ | ⟨-, e⟩ := startSearch_cases target s
  all_goals
    rw [e]
    exact sameMachine_refl s

/-- In a terminal state no command but LOAD and RESET has an effect on the Machine: PATCH and RUN need `Running`. -/
theorem accept_of_not_running (c : Command) (hr : s.runState ≠ .running) :
    sameMachine s (accept c s) ∨ isCleared (accept c s) ∧ ((∃ image, c = .load image) ∨ c = .reset) := by
  obtain ⟨r, e⟩ | ⟨image, rfl, -, e⟩ | ⟨p, v, rfl, hallowed, -⟩ | ⟨rfl, hrun, -⟩ |
    ⟨nlo, nhi, vlo, vhi, rfl, -, -, -, -, e⟩ | ⟨rfl, e⟩ | ⟨target, rfl, -, e⟩ := accept_cases c s
  · rw [e]
    exact .inl (sameMachine_refl s)
  · rw [e]
    exact .inr ⟨isCleared_loadImage image s, .inl ⟨image, rfl⟩⟩
  · obtain ⟨hrun, -⟩ := (patchAllowed_eq_true_iff s v).mp hallowed
    exact absurd hrun hr
  · exact absurd hrun hr
  · rw [e]
    exact .inl (sameMachine_refl s)
  · rw [e]
    exact .inr ⟨isCleared_acceptReset s, .inr rfl⟩
  · rw [e]
    exact .inl (sameMachine_startSearch target s)

/-- Everything a step from a terminal state can do to the Machine. -/
theorem step_of_not_running_cases (hr : s.runState ≠ .running) (h : step s = .next t) :
    sameMachine s t ∨
    (s.runActive = false ∧ ∃ n v, s.phase = .load n v ∧ t = loadPhase n v s) ∨
    (isCleared t ∧ ∃ rest, (∃ image, nextCommand s (.load image) rest) ∨ nextCommand s .reset rest) := by
  obtain ⟨-, hrun, -⟩ | ⟨-, -, rfl⟩ | hload | ⟨-, n, v, -, -, rfl⟩ | ⟨-, n, v, -, rfl⟩ | ⟨-, -, rfl⟩ |
    ⟨c, rest, hc, rfl⟩ := step_next_cases h
  · exact absurd hrun hr
  · exact .inl (sameMachine_refl s)
  · exact .inr (.inl hload)
  · exact .inl (sameMachine_refl s)
  · exact .inl (sameMachine_checkPhase n v s)
  · exact .inl (sameMachine_refl t)
  · obtain hsame | ⟨hcleared, ⟨image, rfl⟩ | rfl⟩ := accept_of_not_running (s := withPending s rest) c hr
    · exact .inl hsame
    · exact .inr (.inr ⟨hcleared, rest, .inl ⟨image, hc⟩⟩)
    · exact .inr (.inr ⟨hcleared, rest, .inr hc⟩)

/-- A terminal state is left for `Running` with the registers clear, by a candidate's restore, LOAD or RESET. -/
theorem isCleared_of_step_to_running (hr : s.runState ≠ .running) (h : step s = .next t) (ht : t.runState = .running) :
    isCleared t ∧ ((s.runActive = false ∧ ∃ n v, s.phase = .load n v) ∨
      ∃ rest, (∃ image, nextCommand s (.load image) rest) ∨ nextCommand s .reset rest) := by
  obtain ⟨-, -, -, hrun, -⟩ | ⟨ha, n, v, hp, rfl⟩ | ⟨hcleared, hcommand⟩ := step_of_not_running_cases hr h
  · exact absurd (hrun.symm.trans ht) hr
  · refine ⟨(isCleared_or_faulted_loadPhase n v s).resolve_right ?_, .inl ⟨ha, n, v, hp⟩⟩
    simp [ht]
  · exact ⟨hcleared, .inr hcommand⟩

/-- Only a candidate's restore leads from `Faulted` to another fault, and it goes on to the phase `Exec`. -/
theorem recordUnchanged_of_step_faulted (hs : s.runState = .faulted) (h : step s = .next t)
    (ht : t.runState = .faulted) (hphase : t.phase = s.phase) : recordUnchanged s t := by
  obtain ⟨-, -, -, -, hrecord⟩ | ⟨-, n, v, hp, rfl⟩ | ⟨⟨hrun, -⟩, -⟩ := step_of_not_running_cases (by simp [hs]) h
  · exact hrecord
  · simp [loadPhase, hp] at hphase
  · simp [ht] at hrun

end TerminalStates

/-- Settles O24: by what a step from a terminal state can do to the Machine, and the list of refusals. -/
theorem terminalStatesAreLeftOnlyByFreshMachine : Obligations.TerminalStatesAreLeftOnlyByFreshMachine := by
  refine ⟨fun s t hr hstep ht => ?_, fun s rest p v hs hc => ?_, fun s t => recordUnchanged_of_step_faulted⟩
  · obtain ⟨⟨-, hip, hcause, hinfo, hslot⟩, hby⟩ := isCleared_of_step_to_running hr hstep ht
    exact ⟨hip, hcause, hinfo, hslot, hby⟩
  · have hr : s.runState ≠ .running := by simp [hs]
    obtain hpatch | hrun := hc
    · exact step_of_refusedBy hpatch (.inl hr)
    · exact step_of_refusedBy hrun hr

end Sys2Proof.Machine

/-! # Decode inverts encode (30_encoding.md sections 2, 3 and 7)

An instruction is read exactly from a window that begins with its cells. So what decode reads depends on those cells only,
and any memory that holds them at `IP` runs the instruction. -/

namespace Sys2Proof

theorem decodeWindow_encode_append (i : Instr) (rest : List Nat) : decodeWindow (encode i ++ rest) = .instr i := by
  cases i with
  | add a b d => exact decodeWindow_add a b d rest
  | mul a b d => exact decodeWindow_mul a b d rest
  | hlt => exact decodeWindow_hlt rest

/-- No other branch of the dispatch gives an instruction. -/
theorem encode_isPrefix_of_decodeWindow {ws : List Nat} {i : Instr} (h : decodeWindow ws = .instr i) : encode i <+: ws := by
  obtain ⟨-, e⟩ | ⟨rest, rfl, e⟩ | ⟨op, rest, -, -, -, e⟩ | ⟨a, b, d, rest, rfl, e⟩ | ⟨a, b, d, rest, rfl, e⟩ |
    ⟨op, rest, -, -, -, -, e⟩ := decodeWindow_cases ws <;>
    rw [e] at h <;> cases h
  · exact ⟨rest, rfl⟩
  · exact ⟨rest, rfl⟩
  · exact ⟨rest, rfl⟩

theorem decodeWindow_eq_instr_iff (ws : List Nat) (i : Instr) : decodeWindow ws = .instr i ↔ encode i <+: ws := by
  refine ⟨encode_isPrefix_of_decodeWindow, ?_⟩
  rintro ⟨rest, rfl⟩
  exact decodeWindow_encode_append i rest

/-- Settles O3: decode at `IP` is the dispatch on the window at `IP`. -/
theorem decodeAgreesWithEncode : Obligations.DecodeAgreesWithEncode :=
  fun mem ip i => decodeWindow_eq_instr_iff (mem.drop ip) i

/-- Settles O5: the three instructions stand encoded at the front of their windows; the others are a fault's branch each. -/
theorem writtenWindowsDecode : Obligations.WrittenWindowsDecode :=
  ⟨decodeWindow_encode_append (.add 9 10 3) _, decodeWindow_encode_append (.mul 4 4 5) _, decodeWindow_encode_append .hlt _,
    decodeWindow_of_illegal _ (by decide) (by decide) (by decide), decodeWindow_of_length_lt (.inl rfl) (by decide)⟩

/-! ## The table word (log entry 11) -/

theorem decodeTableWord_eq_some_iff (nbits w : Nat) (i : Instr) :
    decodeTableWord nbits w = some i ↔ encode i <+: tableCells nbits w := by
  rw [← decodeWindow_eq_instr_iff, decodeTableWord]
  cases decodeWindow (tableCells nbits w) <;> simp

/-- Four cells of 64 bits side by side keep their values. -/
theorem tableCells_tableWordOf {c₀ c₁ c₂ c₃ : Nat} (h : ∀ v ∈ [c₀, c₁, c₂, c₃], v < 2 ^ tableCellBits) :
    tableCells (4 * tableCellBits) (tableWordOf [c₀, c₁, c₂, c₃]) = [c₀, c₁, c₂, c₃] := by
  simp only [List.forall_mem_cons, List.not_mem_nil, false_imp_iff, implies_true, and_true, tableCellBits] at h
  obtain ⟨h₀, h₁, h₂, h₃⟩ := h
  simp only [tableCells, tableWordOf, tableCellBits, List.cons.injEq, and_true]
  norm_num at *
  omega

/-- Settles O4: the word's cells are the instruction's, followed by zeros after the one cell of HLT. -/
theorem tableWordRoundTrip : Obligations.TableWordRoundTrip := by
  intro i hcells
  rw [decodeTableWord_eq_some_iff]
  cases i with
  | add a b d => exact ⟨[], (tableCells_tableWordOf hcells).symm⟩
  | mul a b d => exact ⟨[], (tableCells_tableWordOf hcells).symm⟩
  | hlt => exact ⟨[0, 0, 0], (tableCells_tableWordOf (c₀ := opHlt) (by decide)).symm⟩

end Sys2Proof

namespace Sys2Proof.Machine

/-! ## A placed word is run (log entry 12) -/

theorem drop_placeCells (m : List Nat) (a : Nat) (cells : List Nat) :
    (placeCells m a cells).drop a = cells ++ m.drop (a + cells.length) := by
  have hlen : (m.take a ++ List.replicate (a - m.length) 0).length = a := by
    rw [List.length_append, List.length_take, List.length_replicate]
    omega
  rw [placeCells, List.append_assoc _ cells, List.drop_left' hlen]

theorem decode_placeCells {cells : List Nat} {i : Instr} (m : List Nat) (a : Nat) (h : encode i <+: cells) :
    decode (placeCells m a cells) a = .instr i := by
  rw [decode, drop_placeCells, decodeWindow_eq_instr_iff]
  exact h.trans ⟨_, rfl⟩

/-- Settles O6: with the sequencer started a step is the sequencer's, which runs what decode reads. -/
theorem stepRunsDecodedInstruction : Obligations.StepRunsDecodedInstruction :=
  fun _ _ => step_of_decode_instr

/-- Settles O10: the word's cells stand at `IP` of a started core. -/
theorem placedWordIsRun : Obligations.PlacedWordIsRun := by
  intro s nbits w i hword
  have hstarted : sequencerStarted (s.withFetchWord nbits w) = true := (sequencerStarted_iff _).mpr (.inl rfl)
  exact step_of_decode_instr hstarted rfl (decode_placeCells s.mem s.ip ((decodeTableWord_eq_some_iff nbits w i).mp hword))

end Sys2Proof.Machine

/-! # The instructions and the faults of a step (40_alu.md sections 2 to 4, 60_exceptions.md rules R211 to R218)

What a step of the sequencer can record is said once, cause by cause with its payload (`StepFault`); the statements about
faults are read off it. -/

namespace Sys2Proof.Machine

section Faults

variable {s t : State}

/-! ## What a step can record -/

/-- The records a step from `s` can take, with what they name (60_exceptions.md rules R211 to R215). -/
inductive StepFault (s : State) : FaultCause → Nat → FaultSlot → Prop
  | badOpcode {v : Nat} (hcell : memRead s s.ip = some v) (hadd : v ≠ opAdd) (hmul : v ≠ opMul) (hhlt : v ≠ opHlt) :
      StepFault s .decodeBadOpcode v .none
  | shortWindow (hshort : s.mem.length - s.ip ≤ 3) : StepFault s .decodeShortWindow (s.mem.length - s.ip) .none
  | addrOOB {a : Nat} {slot : FaultSlot} (hslot : slot ≠ .none) (ha : s.mem.length ≤ a)
      (hcell : memRead s (s.ip + slot.code) = some a) : StepFault s .addrOOB a slot
  | overflow {op : AluOp} {a b d x y : Nat} (hdec : decode s.mem s.ip = .instr (op.instr a b d))
      (hx : memRead s a = some x) (hy : memRead s b = some y) (hlarge : tooLarge s.cfg (aluExact op x y)) :
      StepFault s .arithOverflow 0 .none

/-- The window of ADD and MUL: the three fields are the cells after the opcode. -/
theorem fields_of_decode_aluInstr {op : AluOp} {a b d : Nat} (h : decode s.mem s.ip = .instr (op.instr a b d)) :
    memRead s (s.ip + 1) = some a ∧ memRead s (s.ip + 2) = some b ∧ memRead s (s.ip + 3) = some d := by
  obtain ⟨rest, hrest⟩ : encode (op.instr a b d) <+: s.mem.drop s.ip := (decodeWindow_eq_instr_iff _ _).mp h
  have hcell (j : Nat) : memRead s (s.ip + j) = (encode (op.instr a b d) ++ rest)[j]? := by
    rw [hrest, List.getElem?_drop, memRead]
  cases op with
  | add => exact ⟨hcell 1, hcell 2, hcell 3⟩
  | mul => exact ⟨hcell 1, hcell 2, hcell 3⟩

theorem stepFault_of_decode_badOpcode {v : Nat} (h : decode s.mem s.ip = .badOpcode v) :
    StepFault s .decodeBadOpcode v .none := by
  obtain ⟨-, e⟩ | ⟨rest, -, e⟩ | ⟨op, rest, -, -, -, e⟩ | ⟨a, b, d, rest, -, e⟩ | ⟨a, b, d, rest, -, e⟩ |
    ⟨op, rest, hw, hadd, hmul, hhlt, e⟩ := decodeWindow_cases (s.mem.drop s.ip) <;>
    rw [decode, e] at h <;> cases h
  have hcell : memRead s s.ip = some v := by
    simpa [memRead, hw] using (List.getElem?_drop (xs := s.mem) (i := s.ip) (j := 0)).symm
  exact .badOpcode hcell hadd hmul hhlt

theorem stepFault_of_decode_shortWindow {n : Nat} (h : decode s.mem s.ip = .shortWindow n) :
    StepFault s .decodeShortWindow n .none := by
  have hn : n = s.mem.length - s.ip ∧ n ≤ 3 := by
    rw [← List.length_drop]
    obtain ⟨hw, e⟩ | ⟨rest, -, e⟩ | ⟨op, rest, hw, -, hlen, e⟩ | ⟨a, b, d, rest, -, e⟩ | ⟨a, b, d, rest, -, e⟩ |
      ⟨op, rest, -, -, -, -, e⟩ := decodeWindow_cases (s.mem.drop s.ip) <;>
      rw [decode, e] at h <;> cases h
    · simp [hw]
    · simp [hw]
      omega
  obtain ⟨rfl, hshort⟩ := hn
  exact .shortWindow hshort

/-- ADD and MUL record what they met, or store their result. -/
theorem arithNext_stepFault_or_store {op : AluOp} {a b d : Nat} (hdec : decode s.mem s.ip = .instr (op.instr a b d)) :
    (∃ cause info slot, StepFault s cause info slot ∧ arithNext op a b d s = raise s cause info slot) ∨
    (∃ x y, memRead s a = some x ∧ memRead s b = some y ∧ d < s.mem.length ∧
      s.cfg.fits (aluExact op x y) = true ∧ arithNext op a b d s = advance (store s d (aluExact op x y))) := by
  obtain ⟨ha, hb, hd⟩ := fields_of_decode_aluInstr hdec
  obtain ⟨hla, e⟩ | ⟨-, hlb, e⟩ | ⟨-, -, hld, e⟩ | ⟨x, y, hx, hy, -, hfits, e⟩ | hstore := arithNext_cases op a b d s
  · exact .inl ⟨_, _, _, .addrOOB (slot := .aPos) (by simp) hla ha, e⟩
  · exact .inl ⟨_, _, _, .addrOOB (slot := .bPos) (by simp) hlb hb, e⟩
  · exact .inl ⟨_, _, _, .addrOOB (slot := .destPos) (by simp) hld hd, e⟩
  · exact .inl ⟨_, _, _, .overflow hdec hx hy ((fits_eq_false_iff _ _).mp hfits), e⟩
  · exact .inr hstore

/-- The next state of a step in `Running`: a record of what the step met, the effect of HLT, or a result stored. -/
theorem sequencerStep_next_faults (hr : s.runState = .running) (h : sequencerStep s = .next t) :
    (∃ cause info slot, StepFault s cause info slot ∧ t = raise s cause info slot) ∨
    (t = halt s ∧ decode s.mem s.ip = .instr .hlt) ∨
    (∃ op a b d x y, decode s.mem s.ip = .instr (AluOp.instr op a b d) ∧ memRead s a = some x ∧ memRead s b = some y ∧
      d < s.mem.length ∧ s.cfg.fits (aluExact op x y) = true ∧ t = advance (store s d (aluExact op x y))) := by
  obtain ⟨n, hd, e⟩ | ⟨v, hd, e⟩ | ⟨hd, e⟩ | ⟨a, b, d, hd, e⟩ | ⟨a, b, d, hd, e⟩ := sequencerStep_cases hr <;>
    rw [e] at h <;> cases h
  · exact .inl ⟨_, _, _, stepFault_of_decode_shortWindow hd, rfl⟩
  · exact .inl ⟨_, _, _, stepFault_of_decode_badOpcode hd, rfl⟩
  · exact .inr (.inl ⟨rfl, hd⟩)
  · obtain hfault | ⟨x, y, hstore⟩ := arithNext_stepFault_or_store (op := .add) hd
    · exact .inl hfault
    · exact .inr (.inr ⟨.add, a, b, d, x, y, hd, hstore⟩)
  · obtain hfault | ⟨x, y, hstore⟩ := arithNext_stepFault_or_store (op := .mul) hd
    · exact .inl hfault
    · exact .inr (.inr ⟨.mul, a, b, d, x, y, hd, hstore⟩)

/-- A step that ends in `Faulted` is a fault's entry. -/
theorem eq_raise_of_sequencerStep_faulted (hr : s.runState = .running) (h : sequencerStep s = .next t)
    (ht : t.runState = .faulted) :
    ∃ cause info slot, StepFault s cause info slot ∧ t = raise s cause info slot := by
  obtain hfault | ⟨rfl, -⟩ | ⟨op, a, b, d, x, y, -, -, -, -, -, rfl⟩ := sequencerStep_next_faults hr h
  · exact hfault
  · simp at ht
  · simp [hr] at ht

end Faults

/-- Settles O20: fault entry writes `STATE` and the record. -/
theorem faultIsPrecise : Obligations.FaultIsPrecise := by
  intro s t hs hr hstep ht
  rw [step_of_started hs hr] at hstep
  obtain ⟨cause, info, slot, -, rfl⟩ := eq_raise_of_sequencerStep_faulted hr hstep ht
  rfl

/-- Settles O21, cause by cause. -/
theorem faultRecordNamesTheCause : Obligations.FaultRecordNamesTheCause := by
  intro s t hs hr hstep ht
  rw [step_of_started hs hr] at hstep
  obtain ⟨cause, info, slot, hfault, rfl⟩ := eq_raise_of_sequencerStep_faulted hr hstep ht
  cases hfault with
  | badOpcode hcell hadd hmul hhlt => exact .inl ⟨rfl, rfl, hcell, hadd, hmul, hhlt⟩
  | shortWindow hshort => exact .inr (.inl ⟨rfl, rfl, rfl, hshort⟩)
  | addrOOB hslot ha hcell => exact .inr (.inr (.inl ⟨rfl, hslot, ha, hcell⟩))
  | overflow _ _ _ hlarge =>
    obtain ⟨w, hw, -⟩ := hlarge
    exact .inr (.inr (.inr ⟨rfl, rfl, rfl, by simp [hw]⟩))

end Sys2Proof.Machine

/-! # What each instruction computes and leaves (40_alu.md sections 2 to 4, 10_state.md section 10)

Outside `Running` no instruction has an effect; in `Running` its next state is the one of its decoded window. -/

namespace Sys2Proof.Machine

section Instructions

variable {s t : State}

theorem exec_of_not_running (i : Instr) (hr : s.runState ≠ .running) : exec i s = .fault .notRunning := by
  have hstop (next : State) : whenRunning s next = .fault .notRunning := by
    cases hrun : s.runState with
    | running => exact absurd hrun hr
    | halted => simp [whenRunning, hrun]
    | faulted => simp [whenRunning, hrun]
  cases i <;> exact hstop _

theorem exec_of_running (i : Instr) (hr : s.runState = .running) : exec i s = .next (decodedNext (.instr i) s) := by
  cases i <;> exact whenRunning_of_running _ hr

theorem exec_next_iff (i : Instr) : exec i s = .next t ↔ s.runState = .running ∧ decodedNext (.instr i) s = t := by
  by_cases hr : s.runState = .running
  · simp [exec_of_running i hr, hr]
  · simp [exec_of_not_running i hr, hr]

end Instructions

/-- Settles O9. -/
theorem execStopsOutsideRunning : Obligations.ExecStopsOutsideRunning :=
  fun i _ hr => exec_of_not_running i hr

/-! ## The frame -/

/-- ADD and MUL write the destination cell, `IP` and the fault record. -/
theorem arithNext_frame (op : AluOp) (a b d : Nat) (s : State) :
    searcherUnchanged s (arithNext op a b d s) ∧ (arithNext op a b d s).memLen = s.memLen ∧
      ((arithNext op a b d s).runState ≠ .faulted → recordUnchanged s (arithNext op a b d s)) ∧
      ∀ x, x ≠ effectiveAddress d → memRead (arithNext op a b d s) x = memRead s x := by
  obtain ⟨cause, info, slot, e⟩ | ⟨x, y, -, -, -, -, e⟩ := arithNext_raise_or_store op a b d s
  · rw [e]
    exact ⟨searcherUnchanged_refl s, rfl, fun h => absurd rfl h, fun _ _ => rfl⟩
  · rw [e]
    exact ⟨searcherUnchanged_refl s, List.length_set, fun _ => ⟨rfl, rfl, rfl⟩,
      fun z hz => memRead_store_other s (aluExact op x y) hz⟩

/-- Settles O14: HLT writes `STATE` alone; for ADD and MUL by their frame. -/
theorem instructionFrame : Obligations.InstructionFrame := by
  intro i s t h
  obtain ⟨hr, rfl⟩ := (exec_next_iff i).mp h
  cases i with
  | hlt => exact ⟨searcherUnchanged_refl s, rfl, fun _ => ⟨rfl, rfl, rfl⟩, fun _ => ⟨rfl, rfl, rfl, rfl, rfl⟩, by simp⟩
  | add a b d =>
    obtain ⟨hsearcher, hlen, hrecord, hcells⟩ := arithNext_frame .add a b d s
    exact ⟨hsearcher, hlen, hrecord, by simp, by simpa [decodedNext] using hcells⟩
  | mul a b d =>
    obtain ⟨hsearcher, hlen, hrecord, hcells⟩ := arithNext_frame .mul a b d s
    exact ⟨hsearcher, hlen, hrecord, by simp, by simpa [decodedNext] using hcells⟩

/-- Settles O17: the next state is that of a decoded window, which keeps equal Machines equal. -/
theorem programCannotObserveSearcher : Obligations.ProgramCannotObserveSearcher := by
  intro i s s' t hsame h
  obtain ⟨hr, rfl⟩ := (exec_next_iff i).mp h
  obtain ⟨-, -, -, hrun, -⟩ := id hsame
  exact ⟨_, exec_of_running i (hrun.trans hr), sameMachine_decodedNext (.instr i) hsame⟩

/-! ## The operands and the result -/

theorem aluExact_comm (op : AluOp) (x y : Nat) : aluExact op x y = aluExact op y x := by
  cases op with
  | add => exact Nat.add_comm x y
  | mul => exact Nat.mul_comm x y

theorem arithNext_comm (op : AluOp) {a b : Nat} (d : Nat) {s : State} (ha : a < s.mem.length) (hb : b < s.mem.length) :
    arithNext op a b d s = arithNext op b a d s := by
  have hx := memRead_of_inBounds ha
  have hy := memRead_of_inBounds hb
  rw [arithNext_of_operands op d hx hy, arithNext_of_operands op d hy hx, aluExact_comm]

/-- Settles O15: the exact result is symmetric in the operands. -/
theorem operandOrderIsIrrelevant : Obligations.OperandOrderIsIrrelevant :=
  fun s _ _ d ha hb => ⟨congrArg (whenRunning s) (arithNext_comm .add d ha hb),
    congrArg (whenRunning s) (arithNext_comm .mul d ha hb)⟩

/-- An ADD or a MUL that ends in `Running` has stored its result. -/
theorem arithNext_running {op : AluOp} {a b d x y : Nat} {s : State} (hx : memRead s a = some x) (hy : memRead s b = some y)
    (h : (arithNext op a b d s).runState = .running) :
    d < s.mem.length ∧ arithNext op a b d s = advance (store s d (aluExact op x y)) := by
  rw [arithNext_of_operands op d hx hy] at h ⊢
  split_ifs at h ⊢ with hd hfits
  · exact ⟨hd, rfl⟩
  · simp at h
  · simp at h

theorem memRead_ip_of_store_at_next {op : AluOp} {a b x y : Nat} {s : State} (hx : memRead s a = some x)
    (hy : memRead s b = some y) (h : (arithNext op a b (s.ip + stride) s).runState = .running) :
    memRead (arithNext op a b (s.ip + stride) s) (arithNext op a b (s.ip + stride) s).ip = some (aluExact op x y) := by
  obtain ⟨hd, e⟩ := arithNext_running hx hy h
  rw [e]
  exact memRead_store_same (aluExact op x y) hd

/-- Settles O16: the cell at the new `IP` is the result, and decode looks at that cell. -/
theorem storeIsSeenByNextFetch : Obligations.StoreIsSeenByNextFetch := by
  intro s t a b x y i r hx hy hi h ht
  obtain ⟨hr, rfl⟩ := (exec_next_iff i).mp h
  have hcell : memRead (decodedNext (.instr i) s) (decodedNext (.instr i) s).ip = some r := by
    obtain ⟨rfl, rfl⟩ | ⟨rfl, rfl⟩ := hi
    · exact memRead_ip_of_store_at_next (op := .add) hx hy ht
    · exact memRead_ip_of_store_at_next (op := .mul) hx hy ht
  refine ⟨hcell, ?_, fun hadd hmul hhlt => ?_⟩
  · rintro rfl
    exact decode_of_hlt hcell
  · rw [decode_of_getElem? hcell, decodeWindow_of_illegal _ hadd hmul hhlt]

end Sys2Proof.Machine

/-! # What a step of the whole machine writes (10_state.md sections 3 to 7, 20_memory.md section 2)

Every step but an instruction's, a candidate's restore, LOAD, RESET and PATCH keeps the Machine, and every step but LOAD,
SETRANGE and RESET keeps what the host has stored in the core. Each half is said once, with what those exceptions write. -/

namespace Sys2Proof.Machine

/-- Settles O8: the sequencer's step has a next state in `Running`, and every other transition is a next state. -/
theorem stepAlwaysAnswersNext : Obligations.StepAlwaysAnswersNext := by
  intro s
  obtain ⟨-, hr, e⟩ | ⟨-, -, e⟩ | ⟨-, n, v, -, e⟩ | ⟨-, n, v, -, -, e⟩ | ⟨-, n, v, -, e⟩ | ⟨-, e⟩ := step_cases s
  · rw [e]
    exact sequencerStep_total hr
  all_goals exact ⟨_, e⟩

section WholeMachine

variable {s t : State}

/-! ## The Machine -/

/-- What the acceptance of a command does to the Machine. -/
theorem accept_machine_cases (c : Command) (s : State) :
    sameMachine s (accept c s) ∨
    (∃ image, c = .load image ∧ s.cfg.fitsImage image = true ∧ accept c s = respond (loadImage image s) .done) ∨
    (c = .reset ∧ accept c s = acceptReset s) ∨
    (∃ p v, c = .patch p v ∧ s.runState = .running ∧ s.cfg.fits v = true ∧ sameMachine (patchCell s p v) (accept c s)) := by
  obtain ⟨r, e⟩ | hload | ⟨p, v, rfl, hallowed, e⟩ | ⟨-, -, e⟩ | ⟨nlo, nhi, vlo, vhi, -, -, -, -, -, e⟩ | hreset |
    ⟨target, -, -, e⟩ := accept_cases c s
  · rw [e]
    exact .inl (sameMachine_refl s)
  · exact .inr (.inl hload)
  · obtain ⟨hr, hfits⟩ := (patchAllowed_eq_true_iff s v).mp hallowed
    rw [e]
    exact .inr (.inr (.inr ⟨p, v, rfl, hr, hfits, sameMachine_refl (patchCell s p v)⟩))
  · rw [e]
    exact .inl (sameMachine_refl s)
  · rw [e]
    exact .inl (sameMachine_refl s)
  · exact .inr (.inr (.inl hreset))
  · rw [e]
    exact .inl (sameMachine_startSearch target s)

/-- What a step of the whole machine does to the Machine. -/
theorem step_machine_cases (h : step s = .next t) :
    sameMachine s t ∨
    (s.runState = .running ∧ sequencerStep s = .next t) ∨
    (∃ n v, s.phase = .load n v ∧ t = loadPhase n v s) ∨
    (∃ rest,
      (∃ image, nextCommand s (.load image) rest ∧ s.cfg.fitsImage image = true ∧
        t = respond (loadImage image (withPending s rest)) .done) ∨
      (nextCommand s .reset rest ∧ t = acceptReset (withPending s rest)) ∨
      ∃ p v, nextCommand s (.patch p v) rest ∧ s.runState = .running ∧ s.cfg.fits v = true ∧
        sameMachine (patchCell s p v) t) := by
  obtain ⟨-, hr, e⟩ | ⟨-, -, rfl⟩ | ⟨-, hload⟩ | ⟨-, n, v, -, -, rfl⟩ | ⟨-, n, v, -, rfl⟩ | ⟨-, -, rfl⟩ |
    ⟨c, rest, hc, rfl⟩ := step_next_cases h
  · exact .inr (.inl ⟨hr, e⟩)
  · exact .inl (sameMachine_refl s)
  · exact .inr (.inr (.inl hload))
  · exact .inl (sameMachine_refl s)
  · exact .inl (sameMachine_checkPhase n v s)
  · exact .inl (sameMachine_refl t)
  · obtain hsame | ⟨image, rfl, hfits, e⟩ | ⟨rfl, e⟩ | ⟨p, v, rfl, hr, hfits, hsame⟩ :=
      accept_machine_cases c (withPending s rest)
    · exact .inl hsame
    · exact .inr (.inr (.inr ⟨rest, .inl ⟨image, hc, hfits, e⟩⟩))
    · exact .inr (.inr (.inr ⟨rest, .inr (.inl ⟨hc, e⟩)⟩))
    · have hpatched : sameMachine (patchCell s p v) (patchCell (withPending s rest) p v) :=
        sameMachine_patchCell p v (sameMachine_refl s)
      exact .inr (.inr (.inr ⟨rest, .inr (.inr ⟨p, v, hc, hr, hfits, sameMachine_trans hpatched hsame⟩)⟩))

theorem sequencerStep_ip (hr : s.runState = .running) (h : sequencerStep s = .next t) :
    t.ip = s.ip ∨ t.ip = s.ip + 4 := by
  obtain ⟨cause, info, slot, rfl⟩ | ⟨rfl, -⟩ | ⟨op, a, b, d, x, y, -, -, -, -, rfl, -⟩ := sequencerStep_next_cases hr h
  · exact .inl rfl
  · exact .inl rfl
  · exact .inr rfl

theorem patchCell_ip (s : State) (p v : Nat) : (patchCell s p v).ip = s.ip := by
  obtain ⟨-, e⟩ | ⟨-, e⟩ := patchCell_cases s p v <;> rw [e] <;> rfl

theorem patchCell_length (s : State) (p v : Nat) : (patchCell s p v).mem.length = s.mem.length := by
  obtain ⟨-, e⟩ | ⟨-, e⟩ := patchCell_cases s p v <;> rw [e]
  · exact List.length_set
  · rfl

/-- A candidate's restore makes the memory as long as the baseline and puts `IP` at `ENTRY`; then it stands cleared, or at
PatchOOB. -/
theorem loadPhase_machine (n v : Nat) (s : State) :
    (loadPhase n v s).mem.length = s.base.length ∧ (loadPhase n v s).ip = 0 ∧
      ((loadPhase n v s).fcause = .none ∨ (loadPhase n v s).fcause = .patchOOB) := by
  obtain ⟨mem, runState, fcause, finfo, e, hlen, ⟨-, hcause, -⟩ | ⟨-, hcause, -⟩, -⟩ := setUpCandidate_cases n v s
  · rw [loadPhase, e]
    exact ⟨hlen, rfl, .inl hcause⟩
  · rw [loadPhase, e]
    exact ⟨hlen, rfl, .inr hcause⟩

/-- A step keeps `FCAUSE`, clears it, makes it PatchOOB, or is a step of the sequencer that faults. -/
theorem step_fcause_cases (h : step s = .next t) :
    t.fcause = s.fcause ∨ t.fcause = .none ∨ t.fcause = .patchOOB ∨ ∃ info slot, StepFault s t.fcause info slot := by
  obtain ⟨-, -, -, -, hcause, -⟩ | ⟨hr, e⟩ | ⟨n, v, -, rfl⟩ |
    ⟨rest, ⟨image, -, -, rfl⟩ | ⟨-, rfl⟩ | ⟨p, v, -, -, -, -, -, -, -, hcause, -⟩⟩ := step_machine_cases h
  · exact .inl hcause
  · obtain ⟨cause, info, slot, hfault, rfl⟩ | ⟨rfl, -⟩ | ⟨op, a, b, d, x, y, -, -, -, -, -, rfl⟩ :=
      sequencerStep_next_faults hr e
    · exact .inr (.inr (.inr ⟨info, slot, hfault⟩))
    · exact .inl rfl
    · exact .inl rfl
  · obtain ⟨-, -, hcause⟩ := loadPhase_machine n v s
    exact .inr (hcause.imp_right .inl)
  · exact .inr (.inl rfl)
  · exact .inr (.inl rfl)
  · rw [hcause]
    obtain ⟨-, e⟩ | ⟨-, e⟩ := patchCell_cases s p v <;> rw [e]
    · exact .inl rfl
    · exact .inr (.inr (.inl rfl))

end WholeMachine

/-- Settles O19: only the exceptions among the steps write `IP`: an instruction adds 4, the three restarts write `ENTRY`. -/
theorem ipHasNoJumps : Obligations.IpHasNoJumps := by
  intro s t h
  obtain ⟨-, -, hip, -⟩ | ⟨hr, e⟩ | ⟨n, v, -, rfl⟩ |
    ⟨rest, ⟨image, -, -, rfl⟩ | ⟨-, rfl⟩ | ⟨p, v, -, -, -, -, -, hip, -⟩⟩ := step_machine_cases h
  · exact .inl hip
  · exact (sequencerStep_ip hr e).imp_right .inl
  · obtain ⟨-, hip, -⟩ := loadPhase_machine n v s
    exact .inr (.inr hip)
  · exact .inr (.inr rfl)
  · exact .inr (.inr rfl)
  · exact .inl (hip.trans (patchCell_ip s p v))

/-- Settles O27: an instruction, a PATCH and every step that keeps the Machine keep the length. -/
theorem memoryLengthIsFixedBetweenLoads : Obligations.MemoryLengthIsFixedBetweenLoads := by
  intro s t h hlen
  obtain ⟨-, hmem, -⟩ | ⟨hr, e⟩ | ⟨n, v, hphase, rfl⟩ |
    ⟨rest, ⟨image, hc, -, rfl⟩ | ⟨hc, rfl⟩ | ⟨p, v, -, -, -, -, hmem, -⟩⟩ := step_machine_cases h
  · exact absurd (congrArg List.length hmem) hlen
  · exact absurd (sequencerStep_length hr e) hlen
  · obtain ⟨hbase, -⟩ := loadPhase_machine n v s
    exact .inl ⟨n, v, hphase, hbase⟩
  · exact .inr ⟨rest, .inl ⟨image, hc, rfl⟩⟩
  · exact .inr ⟨rest, .inr ⟨hc, rfl⟩⟩
  · exact absurd ((congrArg List.length hmem).trans (patchCell_length s p v)) hlen

/-- Settles O22: the one fault of a step that is ArithOverflow. -/
theorem overflowOnlyForFiniteWordBits : Obligations.OverflowOnlyForFiniteWordBits := by
  intro s t hstep ht hs
  obtain e | e | e | ⟨info, slot, hfault⟩ := step_fcause_cases hstep
  · exact absurd (e.symm.trans ht) hs
  · simp [ht] at e
  · simp [ht] at e
  rw [ht] at hfault
  cases hfault with
  | @overflow op a b d x y hdec hx hy hlarge =>
    obtain ⟨w, hw, hresult⟩ := hlarge
    refine ⟨w, a, b, d, x, y, hw, hx, hy, ?_⟩
    cases op with
    | add => exact .inl ⟨hdec, hresult⟩
    | mul => exact .inr ⟨hdec, hresult⟩

/-- Settles O23: no fault of a step is StepLimit. -/
theorem stepLimitIsNeverRaised : Obligations.StepLimitIsNeverRaised := by
  intro s t hstep hs ht
  obtain e | e | e | ⟨info, slot, hfault⟩ := step_fcause_cases hstep
  · exact hs (e.symm.trans ht)
  · simp [ht] at e
  · simp [ht] at e
  · rw [ht] at hfault
    cases hfault

/-! ## What the host has stored in the core -/

/-- The parameters of the build, the baseline and the bounds are the same. -/
def hostDataUnchanged (s t : State) : Prop := t.cfg = s.cfg ∧ t.base = s.base ∧ boundsUnchanged s t

section HostData

variable {s t : State}

theorem hostDataUnchanged_refl (s : State) : hostDataUnchanged s s := ⟨rfl, rfl, rfl, rfl, rfl, rfl⟩

theorem hostDataUnchanged_of_searcherUnchanged (h : searcherUnchanged s t) : hostDataUnchanged s t := by
  obtain ⟨hbase, hbounds, -, -, hcfg, -⟩ := h
  exact ⟨hcfg, hbase, hbounds⟩

theorem hostDataUnchanged_patchCell (s : State) (p v : Nat) : hostDataUnchanged s (patchCell s p v) := by
  obtain ⟨-, e⟩ | ⟨-, e⟩ := patchCell_cases s p v <;> rw [e] <;> exact hostDataUnchanged_refl s

theorem hostDataUnchanged_loadPhase (n v : Nat) (s : State) : hostDataUnchanged s (loadPhase n v s) := by
  obtain ⟨mem, runState, fcause, finfo, e, -⟩ := setUpCandidate_cases n v s
  rw [loadPhase, e]
  exact hostDataUnchanged_refl s

theorem hostDataUnchanged_checkPhase (n v : Nat) (s : State) : hostDataUnchanged s (checkPhase n v s) := by
  obtain ⟨-, e⟩ | ⟨-, f, -, ⟨-, e⟩ | ⟨-, -, e⟩ | ⟨-, -, e⟩⟩ := checkPhase_cases n v s <;>
    rw [e] <;> exact hostDataUnchanged_refl s

theorem hostDataUnchanged_startSearch (target : Nat) (s : State) : hostDataUnchanged s (startSearch target s) := by
  obtain ⟨-, e⟩ | ⟨-, e⟩ := startSearch_cases target s <;> rw [e] <;> exact hostDataUnchanged_refl s

/-- What a step of the whole machine does to the host's data: nothing, or what LOAD, SETRANGE or RESET does. -/
theorem step_hostData_cases (h : step s = .next t) :
    hostDataUnchanged s t ∨
    (∃ rest,
      (∃ image, nextCommand s (.load image) rest ∧ t.cfg = s.cfg ∧ t.base = image ∧ boundsUnchanged s t) ∨
      (∃ nlo nhi vlo vhi, nextCommand s (.setRange nlo nhi vlo vhi) rest ∧ t.cfg = s.cfg ∧ t.base = s.base ∧
        t.nounLo = nlo ∧ t.nounHi = nhi ∧ t.verbLo = vlo ∧ t.verbHi = vhi) ∨
      (nextCommand s .reset rest ∧ t = acceptReset (withPending s rest))) := by
  obtain ⟨-, hr, e⟩ | ⟨-, -, rfl⟩ | ⟨-, n, v, -, rfl⟩ | ⟨-, n, v, -, -, rfl⟩ | ⟨-, n, v, -, rfl⟩ | ⟨-, -, rfl⟩ |
    ⟨c, rest, hc, rfl⟩ := step_next_cases h
  · exact .inl (hostDataUnchanged_of_searcherUnchanged (sequencerStep_frame hr e))
  · exact .inl (hostDataUnchanged_refl s)
  · exact .inl (hostDataUnchanged_loadPhase n v s)
  · exact .inl (hostDataUnchanged_refl s)
  · exact .inl (hostDataUnchanged_checkPhase n v s)
  · exact .inl (hostDataUnchanged_refl t)
  obtain ⟨r, e⟩ | ⟨image, rfl, -, e⟩ | ⟨p, v, -, -, e⟩ | ⟨-, -, e⟩ | ⟨nlo, nhi, vlo, vhi, rfl, -, -, -, -, e⟩ | ⟨rfl, e⟩ |
    ⟨target, -, -, e⟩ := accept_cases c (withPending s rest)
  · rw [e]
    exact .inl (hostDataUnchanged_refl s)
  · rw [e]
    exact .inr ⟨rest, .inl ⟨image, hc, rfl, rfl, rfl, rfl, rfl, rfl⟩⟩
  · rw [e]
    exact .inl (hostDataUnchanged_patchCell (withPending s rest) p v)
  · rw [e]
    exact .inl (hostDataUnchanged_refl s)
  · rw [e]
    exact .inr ⟨rest, .inr (.inl ⟨nlo, nhi, vlo, vhi, hc, rfl, rfl, rfl, rfl, rfl, rfl⟩)⟩
  · exact .inr ⟨rest, .inr (.inr ⟨hc, e⟩)⟩
  · rw [e]
    exact .inl (hostDataUnchanged_startSearch target (withPending s rest))

end HostData

/-- Settles O28: of what changes the host's data, LOAD and RESET write the baseline. -/
theorem baselineIsWrittenOnlyByLoadAndReset : Obligations.BaselineIsWrittenOnlyByLoadAndReset := by
  intro s t h hwritten
  obtain ⟨-, hbase, -⟩ | ⟨rest, ⟨image, hc, -, hbase, -⟩ | ⟨nlo, nhi, vlo, vhi, -, -, hbase, -⟩ | ⟨hc, rfl⟩⟩ :=
    step_hostData_cases h
  · exact absurd hbase hwritten
  · exact ⟨rest, .inl ⟨image, hc, hbase⟩⟩
  · exact absurd hbase hwritten
  · exact ⟨rest, .inr ⟨hc, rfl⟩⟩

/-- Settles O29: of what changes the host's data, SETRANGE and RESET write the bounds. -/
theorem searchBoundsAreWrittenOnlyBySetRange : Obligations.SearchBoundsAreWrittenOnlyBySetRange := by
  refine ⟨fun s t h hwritten => ?_, fun _ => ⟨rfl, rfl, rfl, rfl⟩⟩
  obtain ⟨-, -, hbounds⟩ | ⟨rest, ⟨image, -, -, -, hbounds⟩ | ⟨nlo, nhi, vlo, vhi, hc, -, -, hset⟩ | ⟨hc, rfl⟩⟩ :=
    step_hostData_cases h
  · exact absurd hbounds hwritten
  · exact absurd hbounds hwritten
  · exact .inl ⟨rest, nlo, nhi, vlo, vhi, hc, hset⟩
  · exact .inr ⟨rest, hc, rfl, rfl, rfl, rfl⟩

/-- Settles O30: nothing that changes the host's data writes the parameters. -/
theorem parametersNeverChange : Obligations.ParametersNeverChange := by
  intro s t h
  obtain ⟨hcfg, -⟩ | ⟨rest, ⟨image, -, hcfg, -⟩ | ⟨nlo, nhi, vlo, vhi, -, hcfg, -⟩ | ⟨-, rfl⟩⟩ := step_hostData_cases h
  · exact hcfg
  · exact hcfg
  · exact hcfg
  · rfl

/-! ## The waiting commands, and single cells -/

/-- The acceptance of a command leaves the commands behind it waiting, RESET's too (log entry 7). -/
theorem accept_pending (c : Command) (s : State) : (accept c s).pending = s.pending := by
  obtain ⟨r, e⟩ | ⟨image, -, -, e⟩ | ⟨p, v, -, -, e⟩ | ⟨-, -, e⟩ | ⟨nlo, nhi, vlo, vhi, -, -, -, -, -, e⟩ | ⟨-, e⟩ |
    ⟨target, -, -, e⟩ := accept_cases c s
  case inr.inr.inl =>
    obtain ⟨-, e'⟩ | ⟨-, e'⟩ := patchCell_cases s p v <;> rw [e, e'] <;> rfl
  case inr.inr.inr.inr.inr.inr =>
    obtain ⟨-, e'⟩ | ⟨-, e'⟩ := startSearch_cases target s <;> rw [e, e']
  all_goals exact (congrArg State.pending e).trans rfl

/-- Settles O40: a step between commands is the acceptance of the oldest, if there is one. -/
theorem oldestWaitingCommandIsAccepted : Obligations.OldestWaitingCommandIsAccepted := by
  refine ⟨fun s hq hnone => ?_, fun s t c rest hc h => ?_⟩
  · rw [step_of_quiescent hq, hostPhase, hnone]
  · rw [step_of_nextCommand hc] at h
    cases h
    exact accept_pending c (withPending s rest)

/-- Settles O26: a write in bounds is `store`. -/
theorem memReadAndMemWriteAreBoundsChecked : Obligations.MemReadAndMemWriteAreBoundsChecked := by
  intro s a v
  obtain ⟨hin, e⟩ | ⟨hout, e⟩ := memWrite_cases s a v
  · refine ⟨fun _ => ⟨rfl, by simp [memRead_of_inBounds hin], store s a v, e, memRead_store_same v hin, List.length_set,
      fun b hb => memRead_store_other s v hb, rfl⟩, fun h => absurd hin (Nat.not_lt.mpr h)⟩
  · exact ⟨fun h => absurd hout (Nat.not_le.mpr h), fun _ => ⟨(memRead_eq_none_iff s a).mpr hout, e⟩⟩

end Sys2Proof.Machine

/-! # The invariant of the machine (10_state.md sections 8 and 11, 43_search.md section 5)

One lemma per transition says that it keeps the invariant: each names the clauses about what the transition writes, and every
other clause stands as it stood. -/

namespace Sys2Proof.Machine

section Invariant

variable {s t : State} {n v : Nat}

/-! ## What the invariant says in a phase -/

theorem phaseInv_of_resting (hp : s.phase = .idle ∨ s.phase = .done) : phaseInv s := by
  obtain hp | hp := hp <;> simp [phaseInv, hp]

theorem State.Inv.due_of_load (h : s.Inv) (hp : s.phase = .load n v) : candidateDue s n v := by
  simpa [phaseInv, hp] using h.phaseHolds

theorem State.Inv.setUp_of_exec (h : s.Inv) (hp : s.phase = .exec n v) : candidateSetUp s n v := by
  simpa [phaseInv, hp] using h.phaseHolds

theorem State.Inv.setUp_of_check (h : s.Inv) (hp : s.phase = .check n v) :
    candidateSetUp s n v ∧ s.runState ≠ .running := by
  simpa [phaseInv, hp] using h.phaseHolds

theorem State.Inv.searching_of_load (h : s.Inv) (hp : s.phase = .load n v) : s.sstate = .searching := by
  simpa [phaseMatchesSearchState, hp] using h.phaseTraced

theorem State.Inv.searching_of_exec (h : s.Inv) (hp : s.phase = .exec n v) : s.sstate = .searching := by
  simpa [phaseMatchesSearchState, hp] using h.phaseTraced

theorem State.Inv.searching_of_check (h : s.Inv) (hp : s.phase = .check n v) : s.sstate = .searching := by
  simpa [phaseMatchesSearchState, hp] using h.phaseTraced

/-- `Found` stands only with a halted Machine. -/
theorem State.Inv.not_found_of_not_halted (h : s.Inv) (hr : s.runState ≠ .halted) : s.sstate ≠ .found := by
  intro hfound
  obtain ⟨-, hhalted, -⟩ := h.foundMeansMatch hfound
  exact hr hhalted

theorem State.Inv.record_clear_of_not_faulted (h : s.Inv) (hr : s.runState ≠ .faulted) :
    s.fcause = .none ∧ s.finfo = 0 ∧ s.fslot = .none := by
  have hcause := h.causeIffFaulted.mpr hr
  exact ⟨hcause, h.recordClear hcause⟩

/-! ## The order of trial -/

theorem candidateNumber_next_verb (hv : s.verbLo ≤ v) : candidateNumber s n (v + 1) = candidateNumber s n v + 1 := by
  rw [candidateNumber, candidateNumber, Nat.sub_add_comm hv, Nat.add_assoc]

theorem candidateNumber_next_noun (hn : s.nounLo ≤ n) (hv : s.verbLo ≤ s.verbHi) :
    candidateNumber s (n + 1) s.verbLo = candidateNumber s n s.verbHi + 1 := by
  rw [candidateNumber, candidateNumber, Nat.sub_add_comm hn, Nat.succ_mul, Nat.sub_self, Nat.sub_add_comm hv]
  omega

/-! ## A step of the sequencer -/

/-- The records of a step are those the invariant allows. -/
theorem StepFault.record {cause : FaultCause} {info : Nat} {slot : FaultSlot} (h : StepFault s cause info slot) :
    cause ≠ .none ∧ cause ≠ .patchOOB ∧ cause ≠ .stepLimit ∧ (slot ≠ .none ↔ cause = .addrOOB) := by
  cases h with
  | addrOOB hslot => simp [hslot]
  | badOpcode => simp
  | shortWindow => simp
  | overflow => simp

theorem quiescent_eq_false_of_started (hs : sequencerStarted s = true) : quiescent s = false := by
  rw [← Bool.not_eq_true, quiescent_iff]
  rintro ⟨hactive, hphase⟩
  obtain hactive' | ⟨n, v, hexec⟩ := (sequencerStarted_iff s).mp hs
  · simp [hactive] at hactive'
  · simp [hexec] at hphase

/-- A candidate's run leaves what its setting up has made. -/
theorem State.Inv.phaseInv_of_run (h : s.Inv) (hs : sequencerStarted s = true) (hr : s.runState = .running)
    (hframe : searcherUnchanged s t) (hlen : t.mem.length = s.mem.length) : phaseInv t := by
  obtain ⟨hbase, hbounds, ⟨-, hnoun, hverb, -, -, hsfcnt⟩, hphase, -⟩ := hframe
  obtain hactive | ⟨n, v, hexec⟩ := (sequencerStarted_iff s).mp hs
  · exact phaseInv_of_resting (by simpa [hphase] using h.runOutsideSearch hactive)
  · obtain ⟨⟨hrange, hdue⟩, hn, hv, hbaseLen, hpatched⟩ := h.setUp_of_exec hexec
    have hnumber : candidateNumber t n v = candidateNumber s n v := by
      obtain ⟨hnounLo, -, hverbLo, hverbHi⟩ := hbounds
      simp only [candidateNumber, hnounLo, hverbLo, hverbHi]
    have hsetUp : candidateSetUp t n v :=
      ⟨⟨inRange_of_boundsUnchanged hbounds hrange, by rwa [hsfcnt, hnumber]⟩, hnoun.trans hn, hverb.trans hv,
        by simpa [hlen, hbase] using hbaseLen, fun _ => by simpa [hlen] using hpatched (by simp [hr])⟩
    simpa [phaseInv, hphase, hexec] using hsetUp

theorem inv_sequencerStep (h : s.Inv) (hs : sequencerStarted s = true) (hr : s.runState = .running)
    (hstep : sequencerStep s = .next t) : t.Inv := by
  have hframe := sequencerStep_frame hr hstep
  have hphase : phaseInv t := h.phaseInv_of_run hs hr hframe (sequencerStep_length hr hstep)
  have hbusy : quiescent t ≠ true := by
    simp [quiescent_eq_false_of_started ((sequencerStarted_of_searcherUnchanged hframe).trans hs)]
  have hsearch : s.sstate ≠ .found := h.not_found_of_not_halted (by simp [hr])
  obtain ⟨hcause, -⟩ := h.record_clear_of_not_faulted (by simp [hr])
  obtain ⟨cause, info, slot, hfault, rfl⟩ | ⟨rfl, hdec⟩ | ⟨op, a, b, d, x, y, hdec, -, -, -, hfits, rfl⟩ :=
    sequencerStep_next_faults hr hstep
  · obtain ⟨hnone, hpatch, hlimit, hslot⟩ := hfault.record
    exact { h with
      haltedAtHlt := fun hhalted => by simp at hhalted
      patchFaultAtEntry := fun e => absurd e hpatch
      causeIffFaulted := by simpa using hnone
      recordClear := fun e => absurd e hnone
      slotIffAddrOOB := hslot
      causeNotReserved := hlimit
      observedRunningAtEntry := fun e => absurd e hbusy
      foundMeansMatch := fun e => absurd e hsearch
      phaseHolds := hphase }
  · exact { h with
      haltedAtHlt := fun _ => memRead_of_decode_hlt hdec
      causeIffFaulted := by simp [hcause]
      observedRunningAtEntry := fun e => absurd e hbusy
      foundMeansMatch := fun e => absurd e hsearch
      phaseHolds := hphase }
  · have hwindow : s.ip + stride ≤ s.mem.length := by
      refine window_le_length_of_decode (a := a) (b := b) (d := d) ?_
      cases op with
      | add => exact .inl hdec
      | mul => exact .inr hdec
    exact { h with
      ipAligned := by simpa using h.ipAligned
      ipWithinMemory := by simpa using hwindow
      haltedAtHlt := fun hhalted => by simp [hr] at hhalted
      patchFaultAtEntry := fun e => by simp [hcause] at e
      observedRunningAtEntry := fun e => absurd e hbusy
      foundMeansMatch := fun e => absurd e hsearch
      memWf := wf_set d h.memWf hfits
      phaseHolds := hphase }

/-- The answer to a RUN, given when its run is over. -/
theorem inv_finishRun (h : s.Inv) (ha : s.runActive = true) (hr : s.runState ≠ .running) : (finishRun s).Inv :=
  { h with
    observedRunningAtEntry := fun _ hrun => absurd hrun hr
    runOutsideSearch := fun hactive => by simp at hactive
    phaseHolds := phaseInv_of_resting (h.runOutsideSearch ha) }

/-! ## The transitions of the search controller -/

theorem inv_loadPhase (h : s.Inv) (ha : s.runActive = false) (hp : s.phase = .load n v) : (loadPhase n v s).Inv := by
  obtain ⟨⟨hnlo, hnhi, hvlo, hvhi⟩, hdue⟩ := h.due_of_load hp
  have hsearching := h.searching_of_load hp
  have hpair (hhlt : s.cfg.fits opHlt = true) : s.cfg.fits n = true ∧ s.cfg.fits v = true := by
    obtain ⟨-, hnoun, -, hverb⟩ := h.boundsFit hhlt
    exact ⟨fits_mono hnhi hnoun, fits_mono hvhi hverb⟩
  obtain ⟨mem, runState, fcause, finfo, e, hlen, hrun, hwf⟩ := setUpCandidate_cases n v s
  rw [loadPhase, e]
  have hsetUp : runState ≠ .halted ∧ (fcause = .none ↔ runState ≠ .faulted) ∧ (fcause = .none → finfo = 0) ∧
      fcause ≠ .addrOOB ∧ fcause ≠ .stepLimit ∧ (runState ≠ .faulted → 3 ≤ mem.length) := by
    obtain ⟨rfl, rfl, rfl, hlong⟩ | ⟨rfl, rfl, -⟩ := hrun
    · simp [hlong]
    · simp
  obtain ⟨hhalted, hcause, hinfo, hslot, hlimit, hlong⟩ := hsetUp
  exact { h with
    ipAligned := rfl
    ipWithinMemory := Nat.zero_le _
    haltedAtHlt := fun e => absurd e hhalted
    patchFaultAtEntry := fun _ => rfl
    causeIffFaulted := hcause
    recordClear := fun e => ⟨hinfo e, rfl⟩
    slotIffAddrOOB := iff_of_false (fun e => e rfl) hslot
    causeNotReserved := hlimit
    observedRunningAtEntry := fun _ _ => rfl
    foundMeansMatch := fun e => by simp [hsearching] at e
    idleClear := fun e => by simp [hsearching] at e
    memWf := hwf h.baseWf
    pairFits := hpair
    phaseTraced := by simp [phaseMatchesSearchState, hsearching]
    runOutsideSearch := fun e => by simp [ha] at e
    phaseHolds := ⟨⟨⟨hnlo, hnhi, hvlo, hvhi⟩, hdue⟩, rfl, rfl, hlen, hlong⟩ }

theorem inv_toPhase_check (h : s.Inv) (ha : s.runActive = false) (hp : s.phase = .exec n v)
    (hr : s.runState ≠ .running) : (toPhase s (.check n v)).Inv :=
  { h with
    observedRunningAtEntry := fun _ hrun => absurd hrun hr
    phaseTraced := by simp [phaseMatchesSearchState, h.searching_of_exec hp]
    runOutsideSearch := fun e => by simp [ha] at e
    phaseHolds := ⟨h.setUp_of_exec hp, hr⟩ }

/-- The search goes on to a candidate whose number leaves room for the one just counted. -/
theorem inv_nextCandidate {f n' v' : Nat} (h : s.Inv) (ha : s.runActive = false) (hp : s.phase = .check n v)
    (hr : s.runState ≠ .running) (hnext : inRange s n' v') (hf : f ≤ candidateNumber s n' v') :
    State.Inv { s with sfcnt := f, phase := .load n' v' } := by
  have hsearching := h.searching_of_check hp
  exact { h with
    observedRunningAtEntry := fun _ hrun => absurd hrun hr
    idleClear := fun e => by simp [hsearching] at e
    phaseTraced := by simp [phaseMatchesSearchState, hsearching]
    runOutsideSearch := fun e => by simp [ha] at e
    phaseHolds := ⟨hnext, hf⟩ }

theorem inv_checkPhase (h : s.Inv) (ha : s.runActive = false) (hp : s.phase = .check n v) : (checkPhase n v s).Inv := by
  obtain ⟨⟨⟨⟨hnlo, hnhi, hvlo, hvhi⟩, hdue⟩, rfl, rfl, -, hlong⟩, hr⟩ := h.setUp_of_check hp
  have hsearching := h.searching_of_check hp
  obtain ⟨hm, e⟩ | ⟨-, f, hf, hrows⟩ := checkPhase_cases s.noun s.verb s
  · obtain ⟨hhalted, hcell⟩ := (candidateMatches_eq_true_iff s).mp hm
    rw [e]
    exact { h with
      observedRunningAtEntry := fun _ hrun => absurd hrun hr
      foundMeansMatch := fun _ => ⟨rfl, hhalted, hlong (by simp [hhalted]), hcell⟩
      answerZero := fun e => absurd rfl e
      idleClear := fun e => by simp at e
      phaseTraced := rfl
      runOutsideSearch := fun _ => .inr rfl
      phaseHolds := trivial }
  · have hcount : f ≤ s.sfcnt + 1 := by
      rw [hf]
      split <;> omega
    obtain ⟨hv, e⟩ | ⟨hv, hn, e⟩ | ⟨-, -, e⟩ := hrows <;> rw [e]
    · refine inv_nextCandidate h ha hp hr ⟨hnlo, hnhi, by omega, hv⟩ ?_
      rw [candidateNumber_next_verb hvlo]
      omega
    · have hv : s.verb = s.verbHi := by omega
      rw [hv] at hdue
      refine inv_nextCandidate h ha hp hr ⟨by omega, hn, le_rfl, by omega⟩ ?_
      rw [candidateNumber_next_noun hnlo (by omega)]
      omega
    · exact { h with
        observedRunningAtEntry := fun _ hrun => absurd hrun hr
        foundMeansMatch := fun e => by simp at e
        answerZero := fun _ => h.answerZero (by simp [hsearching])
        idleClear := fun e => by simp at e
        phaseTraced := rfl
        runOutsideSearch := fun _ => .inr rfl
        phaseHolds := trivial }

/-! ## The acceptance of a command -/

theorem inv_withPending (rest : List Command) (h : s.Inv) : (withPending s rest).Inv := { h with }

theorem inv_respond (r : Response) (h : s.Inv) : (respond s r).Inv := { h with }

theorem inv_initial (c : Config) : (State.initial c).Inv where
  ipAligned := rfl
  ipWithinMemory := le_rfl
  haltedAtHlt := fun e => by cases e
  patchFaultAtEntry := fun _ => rfl
  causeIffFaulted := by simp [State.initial]
  recordClear := fun _ => ⟨rfl, rfl⟩
  slotIffAddrOOB := by simp [State.initial]
  causeNotReserved := by simp [State.initial]
  observedRunningAtEntry := fun _ _ => rfl
  foundMeansMatch := fun e => by cases e
  answerZero := fun _ => rfl
  idleClear := fun _ => ⟨rfl, rfl, rfl, rfl, rfl⟩
  memWf := wf_nil c
  baseWf := wf_nil c
  targetFits := fits_zero c
  boundsFit := fun hhlt => ⟨fits_zero c, hhlt, fits_zero c, hhlt⟩
  pairFits := fun _ => ⟨fits_zero c, fits_zero c⟩
  phaseTraced := rfl
  runOutsideSearch := fun _ => .inl rfl
  phaseHolds := trivial

theorem inv_loadImage {image : List Nat} (h : s.Inv) (hfits : s.cfg.fitsImage image = true) : (loadImage image s).Inv :=
  { h with
    ipAligned := rfl
    ipWithinMemory := Nat.zero_le _
    haltedAtHlt := fun e => by simp at e
    patchFaultAtEntry := fun _ => rfl
    causeIffFaulted := by simp
    recordClear := fun _ => ⟨rfl, rfl⟩
    slotIffAddrOOB := by simp
    causeNotReserved := by simp
    observedRunningAtEntry := fun _ _ => rfl
    foundMeansMatch := fun e => by simp at e
    answerZero := fun _ => rfl
    idleClear := fun _ => ⟨rfl, rfl, rfl, rfl, rfl⟩
    memWf := hfits
    baseWf := hfits
    targetFits := fits_zero s.cfg
    pairFits := fun _ => ⟨fits_zero s.cfg, fits_zero s.cfg⟩
    phaseTraced := rfl
    runOutsideSearch := fun _ => .inl rfl
    phaseHolds := trivial }

/-- A PATCH is made between commands and in `Running`, so at `ENTRY` and not after `Found`. -/
theorem inv_patchCell (p : Nat) (h : s.Inv) (hq : quiescent s = true) (hr : s.runState = .running)
    (hfits : s.cfg.fits v = true) : (patchCell s p v).Inv := by
  obtain ⟨-, hphase⟩ := (quiescent_iff s).mp hq
  have hentry : s.ip = entry := h.observedRunningAtEntry hq hr
  have hsearch : s.sstate ≠ .found := h.not_found_of_not_halted (by simp [hr])
  obtain ⟨-, -, hslot⟩ := h.record_clear_of_not_faulted (by simp [hr])
  obtain ⟨-, e⟩ | ⟨-, e⟩ := patchCell_cases s p v <;> rw [e]
  · exact { h with
      ipWithinMemory := by simpa using h.ipWithinMemory
      haltedAtHlt := fun e => by simp [hr] at e
      foundMeansMatch := fun e => absurd e hsearch
      memWf := wf_set p h.memWf hfits
      phaseHolds := phaseInv_of_resting hphase }
  · exact { h with
      haltedAtHlt := fun e => by simp at e
      patchFaultAtEntry := fun _ => hentry
      causeIffFaulted := by simp
      recordClear := fun e => by simp at e
      slotIffAddrOOB := by simp
      causeNotReserved := by simp
      observedRunningAtEntry := fun _ _ => hentry
      foundMeansMatch := fun e => absurd e hsearch
      phaseHolds := phaseInv_of_resting hphase }

theorem inv_startRun (h : s.Inv) (hq : quiescent s = true) :
    State.Inv { s with runActive := true, response := none } := by
  obtain ⟨-, hphase⟩ := (quiescent_iff s).mp hq
  exact { h with
    observedRunningAtEntry := fun _ => h.observedRunningAtEntry hq
    runOutsideSearch := fun _ => hphase }

theorem inv_setRange {nlo nhi vlo vhi : Nat} (h : s.Inv) (hq : quiescent s = true) (hnlo : s.cfg.fits nlo = true)
    (hnhi : s.cfg.fits nhi = true) (hvlo : s.cfg.fits vlo = true) (hvhi : s.cfg.fits vhi = true) :
    State.Inv { s with nounLo := nlo, nounHi := nhi, verbLo := vlo, verbHi := vhi } := by
  obtain ⟨-, hphase⟩ := (quiescent_iff s).mp hq
  exact { h with
    boundsFit := fun _ => ⟨hnlo, hnhi, hvlo, hvhi⟩
    phaseHolds := phaseInv_of_resting hphase }

theorem inv_startSearch {target : Nat} (h : s.Inv) (hq : quiescent s = true) (hfits : s.cfg.fits target = true) :
    (startSearch target s).Inv := by
  obtain ⟨hactive, -⟩ := (quiescent_iff s).mp hq
  obtain ⟨-, e⟩ | ⟨hrange, e⟩ := startSearch_cases target s <;> rw [e]
  · exact { h with
      observedRunningAtEntry := fun _ => h.observedRunningAtEntry hq
      foundMeansMatch := fun e => by simp at e
      answerZero := fun _ => rfl
      idleClear := fun e => by simp at e
      targetFits := hfits
      phaseTraced := rfl
      runOutsideSearch := fun _ => .inr rfl
      phaseHolds := trivial }
  · obtain ⟨hnoun, hverb⟩ := (rangeEmpty_eq_false_iff s).mp hrange
    exact { h with
      observedRunningAtEntry := fun _ => h.observedRunningAtEntry hq
      foundMeansMatch := fun e => by simp at e
      answerZero := fun _ => rfl
      idleClear := fun e => by simp at e
      targetFits := hfits
      phaseTraced := rfl
      runOutsideSearch := fun e => by simp [hactive] at e
      phaseHolds := ⟨⟨le_rfl, hnoun, le_rfl, hverb⟩, Nat.zero_le _⟩ }

theorem inv_accept (c : Command) (h : s.Inv) (hq : quiescent s = true) : (accept c s).Inv := by
  obtain ⟨r, e⟩ | ⟨image, -, hfits, e⟩ | ⟨p, v, -, hallowed, e⟩ | ⟨-, -, e⟩ |
    ⟨nlo, nhi, vlo, vhi, -, hnlo, hnhi, hvlo, hvhi, e⟩ | ⟨-, e⟩ | ⟨target, -, hfits, e⟩ := accept_cases c s <;> rw [e]
  · exact inv_respond r h
  · exact inv_respond .done (inv_loadImage h hfits)
  · obtain ⟨hr, hfits⟩ := (patchAllowed_eq_true_iff s v).mp hallowed
    exact inv_respond _ (inv_patchCell p h hq hr hfits)
  · exact inv_startRun h hq
  · exact inv_respond .done (inv_setRange h hq hnlo hnhi hvlo hvhi)
  · exact inv_withPending s.pending (inv_initial s.cfg)
  · exact inv_startSearch h hq hfits

end Invariant

/-- Settles O54: `State.reset` is the reset state of the build with the default parameters. -/
theorem resetMeetsInvariant : Obligations.ResetMeetsInvariant :=
  ⟨inv_initial, inv_initial Config.standard⟩

/-- Settles O55: each of the transitions a step can be keeps the invariant. -/
theorem stepKeepsInvariant : Obligations.StepKeepsInvariant := by
  intro s t h hstep
  obtain ⟨hs, hr, e⟩ | ⟨ha, hr, rfl⟩ | ⟨ha, n, v, hp, rfl⟩ | ⟨ha, n, v, hp, hr, rfl⟩ | ⟨ha, n, v, hp, rfl⟩ | ⟨-, -, rfl⟩ |
    ⟨c, rest, ⟨hq, -⟩, rfl⟩ := step_next_cases hstep
  · exact inv_sequencerStep h hs hr e
  · exact inv_finishRun h ha hr
  · exact inv_loadPhase h ha hp
  · exact inv_toPhase_check h ha hp hr
  · exact inv_checkPhase h ha hp
  · exact h
  · exact inv_accept c (inv_withPending rest h) hq

end Sys2Proof.Machine

/-! # The candidates of a search (43_search.md rules R183 to R190 and R197)

What setting up a candidate makes depends on the length of the baseline: both patches in bounds, the first only, or neither.
Of a patch in bounds the value is written if a cell of the build can hold it (log entry 9). -/

namespace Sys2Proof.Machine

/-! ## One patch -/

/-- A memory with a value in a cell, if a cell of the build can hold the value. -/
def setIfFits (c : Config) (m : List Nat) (a v : Nat) : List Nat := if c.fits v then m.set a v else m

section Candidate

variable {s : State} {n v : Nat}

theorem setIfFits_of_tooLarge {c : Config} (m : List Nat) (a : Nat) (h : tooLarge c v) : setIfFits c m a v = m :=
  if_neg fun hfits => (fits_eq_true_iff c v).mp hfits h

theorem setIfFits_of_not_tooLarge {c : Config} (m : List Nat) (a : Nat) (h : ¬ tooLarge c v) :
    setIfFits c m a v = m.set a v :=
  if_pos ((fits_eq_true_iff c v).mpr h)

@[simp] theorem length_setIfFits (c : Config) (m : List Nat) (a v : Nat) : (setIfFits c m a v).length = m.length := by
  unfold setIfFits
  split
  · exact List.length_set
  · rfl

theorem patchStep_of_inBounds {p : Nat} (v : Nat) (hr : s.runState = .running) (hp : p < s.mem.length) :
    patchStep p v s = { s with mem := setIfFits s.cfg s.mem p v } := by
  obtain ⟨-, hfits, -, e⟩ | ⟨-, hout, -⟩ | ⟨-, hfits, -, e⟩ | ⟨hnot, -⟩ := patchStep_cases p v s
  · rw [e, setIfFits, if_pos hfits]
    rfl
  · omega
  · rw [e, setIfFits, if_neg (by simp [hfits])]
  · exact absurd hr hnot

theorem patchStep_of_outOfBounds {p : Nat} (v : Nat) (hr : s.runState = .running) (hp : s.mem.length ≤ p) :
    patchStep p v s = raise s .patchOOB p .none := by
  obtain ⟨-, -, hin, -⟩ | ⟨-, -, e⟩ | ⟨-, -, hin, -⟩ | ⟨hnot, -⟩ := patchStep_cases p v s
  · omega
  · exact e
  · omega
  · exact absurd hr hnot

/-! ## The two patches, by the length of the baseline -/

theorem setUpCandidate_of_three_cells (n v : Nat) (h : 3 ≤ s.base.length) :
    setUpCandidate n v s = { restore { s with noun := n, verb := v } with
      mem := setIfFits s.cfg (setIfFits s.cfg s.base nounAddr n) verbAddr v } := by
  have hnoun : nounAddr < s.base.length := h.trans' (by decide)
  have hverb : verbAddr < (setIfFits s.cfg s.base nounAddr n).length := by
    rw [length_setIfFits]
    exact h
  rw [setUpCandidate, patchCandidate, patchStep_of_inBounds n rfl hnoun]
  exact patchStep_of_inBounds v rfl hverb

theorem setUpCandidate_of_two_cells (n v : Nat) (h : s.base.length = 2) :
    setUpCandidate n v s = raise { restore { s with noun := n, verb := v } with
      mem := setIfFits s.cfg s.base nounAddr n } .patchOOB 2 .none := by
  have hnoun : nounAddr < s.base.length := by simp [h, nounAddr]
  have hverb : (setIfFits s.cfg s.base nounAddr n).length ≤ verbAddr := by simp [h, verbAddr]
  rw [setUpCandidate, patchCandidate, patchStep_of_inBounds n rfl hnoun]
  exact patchStep_of_outOfBounds v rfl hverb

theorem setUpCandidate_of_no_noun_cell (n v : Nat) (h : s.base.length ≤ 1) :
    setUpCandidate n v s = raise (restore { s with noun := n, verb := v }) .patchOOB 1 .none := by
  rw [setUpCandidate, patchCandidate, patchStep_of_outOfBounds n rfl h]
  exact patchStep_of_not_running verbAddr v (by simp)

end Candidate

/-- Settles O42: by the length of the baseline; `loadPhase` goes on to `Exec`. -/
theorem loadPhaseSetsUpCandidate : Obligations.LoadPhaseSetsUpCandidate := by
  intro s n v ha hp
  obtain ⟨mem, runState, fcause, finfo, e, -⟩ := setUpCandidate_cases n v s
  refine ⟨loadPhase n v s, step_of_load ha hp, rfl, by simp [loadPhase, e], by simp [loadPhase, e], by simp [loadPhase, e],
    by simp [loadPhase, e], fun h => ?_, fun h => ?_, fun h => ?_⟩
  · rw [loadPhase, setUpCandidate_of_three_cells n v h]
    refine ⟨rfl, rfl, rfl, rfl, fun hn hv => ?_⟩
    simp [setIfFits_of_not_tooLarge _ _ hn, setIfFits_of_not_tooLarge _ _ hv, nounAddr, verbAddr]
  · rw [loadPhase, setUpCandidate_of_two_cells n v h]
    exact ⟨rfl, rfl, rfl, rfl, fun hn => setIfFits_of_not_tooLarge s.base nounAddr hn⟩
  · rw [loadPhase, setUpCandidate_of_no_noun_cell n v h]
    exact ⟨rfl, rfl, rfl, rfl, rfl⟩

/-- Settles O43: by the length of the baseline and which of the two values a cell can hold. -/
theorem unfitCandidateValueIsNotPatched : Obligations.UnfitCandidateValueIsNotPatched := by
  intro s n v
  refine ⟨fun h => ?_, fun h => ?_, fun h _ => setUpCandidate_of_no_noun_cell n v h⟩
  · rw [setUpCandidate_of_three_cells n v h]
    refine ⟨fun hn hv => ?_, fun hn hv => ?_, fun hn hv => ?_⟩
    · rw [setIfFits_of_tooLarge _ _ hn, setIfFits_of_tooLarge _ _ hv]
      rfl
    · rw [setIfFits_of_tooLarge _ _ hn, setIfFits_of_not_tooLarge _ _ hv]
      rfl
    · rw [setIfFits_of_not_tooLarge _ _ hn, setIfFits_of_tooLarge _ _ hv]
      rfl
  · rw [setUpCandidate_of_two_cells n v h]
    refine ⟨fun hn => ?_, fun hn _ => ?_⟩
    · rw [setIfFits_of_tooLarge _ _ hn]
      rfl
    · rw [setIfFits_of_not_tooLarge _ _ hn]
      rfl

/-! ## A baseline too short for the pair -/

section ShortBaseline

variable {s : State}

theorem setUpCandidate_of_short (n v : Nat) (h : s.base.length < 3) :
    ∃ mem, setUpCandidate n v s = raise { restore { s with noun := n, verb := v } with mem := mem }
      .patchOOB (if s.base.length = 2 then 2 else 1) .none := by
  by_cases htwo : s.base.length = 2
  · rw [if_pos htwo]
    exact ⟨_, setUpCandidate_of_two_cells n v htwo⟩
  · rw [if_neg htwo]
    exact ⟨s.base, setUpCandidate_of_no_noun_cell n v (by omega)⟩

/-- A candidate over a short baseline takes no step: its trial ends where its setting up does, at PatchOOB. -/
theorem tryCandidate_of_short (n v : Nat) (h : s.base.length < 3) :
    setUpCandidate n v s = tryCandidate n v s ∧ (tryCandidate n v s).runState = .faulted ∧
      (tryCandidate n v s).fcause = .patchOOB ∧ (tryCandidate n v s).finfo = (if s.base.length = 2 then 2 else 1) ∧
      (tryCandidate n v s).fslot = .none ∧ (tryCandidate n v s).ip = 0 := by
  obtain ⟨mem, e⟩ := setUpCandidate_of_short n v h
  have hended : tryCandidate n v s = setUpCandidate n v s := runFuel_of_not_running _ (by simp [e])
  rw [hended, e]
  exact ⟨rfl, rfl, rfl, rfl, rfl, rfl⟩

end ShortBaseline

/-- Settles O56: every candidate of the exhausted search faults, the last one too. -/
theorem shortBaselineFaultsEveryCandidate : Obligations.ShortBaselineFaultsEveryCandidate := by
  intro s target h
  have hfaults (n v : Nat) := tryCandidate_of_short (s := beginSearch target s) n v h
  have hnone : ∀ n v, (n, v) ∈ candidates s → candidateMatches (tryCandidate n v (beginSearch target s)) = false := by
    intro n v _
    obtain ⟨-, hrun, -⟩ := hfaults n v
    simp [hrun]
  obtain ⟨hsstate, hanswer, -, hcount, hlast⟩ := exhaustedSearchReportsNotFound s target hnone
  refine ⟨fun n v => tryCandidate_of_short n v h, hsstate, hanswer, ?_, fun hnoun hverb => ?_⟩
  · rw [hcount, List.countP_eq_length]
    intro p _
    obtain ⟨-, hrun, -⟩ := hfaults p.1 p.2
    simp [hrun]
  · obtain ⟨-, -, -, -, hip, hrun, hcause, hinfo, -⟩ := hlast hnoun hverb
    obtain ⟨-, hrun', hcause', hinfo', -, hip'⟩ := hfaults s.nounHi s.verbHi
    exact ⟨hrun.trans hrun', hcause.trans hcause', hinfo.trans hinfo', hip.trans hip'⟩

/-! ## The rows of `Exec`, `Check` and `Idle` -/

/-- Settles O44: the row `Exec` with the run over, and the rows of `Check` by the match and the bounds. -/
theorem execAndCheckPhaseTransitions : Obligations.ExecAndCheckPhaseTransitions := by
  refine ⟨fun s n v ha hp hr => step_of_run_ended_in_exec ha hp hr, fun s n v ha hp hr hcell => ?_,
    fun s n v f ha hp hmatch hf => ?_⟩
  · obtain ⟨-, e⟩ | ⟨hm, -⟩ := checkPhase_cases n v s
    · rw [step_of_check ha hp, e]
      rfl
    · exact absurd ⟨hr, hcell⟩ ((candidateMatches_eq_false_iff s).mp hm)
  · obtain ⟨hm, -⟩ | ⟨-, g, hg, hrows⟩ := checkPhase_cases n v s
    · exact absurd ((candidateMatches_eq_true_iff s).mp hm) hmatch
    have hcount : g = f := by
      obtain ⟨hr, rfl⟩ | ⟨hr, rfl⟩ := hf
      · rw [hg, if_pos hr]
      · rw [hg, if_neg hr]
    subst hcount
    rw [step_of_check ha hp]
    refine ⟨fun hv => ?_, fun hv hn => ?_, fun hv hn => ?_⟩
    · obtain ⟨-, e⟩ | ⟨hv', -⟩ | ⟨hv', -⟩ := hrows
      · rw [e]
      · omega
      · omega
    · obtain ⟨hv', -⟩ | ⟨-, -, e⟩ | ⟨-, hn', -⟩ := hrows
      · omega
      · rw [e]
      · omega
    · obtain ⟨hv', -⟩ | ⟨-, hn', -⟩ | ⟨-, -, e⟩ := hrows
      · omega
      · omega
      · rw [e]

/-- Settles O45: an accepted SEARCH is `startSearch`, which looks at the range. -/
theorem emptyRangeEndsNotFoundAtOnce : Obligations.EmptyRangeEndsNotFoundAtOnce := by
  intro s target rest hc hfit
  rw [step_of_nextCommand hc, accept_search_of_not_refusedBy (s := withPending s rest) hfit]
  obtain ⟨hempty, e⟩ | ⟨hrange, e⟩ := startSearch_cases target (withPending s rest) <;> rw [e]
  · have hbounds : s.nounHi < s.nounLo ∨ s.verbHi < s.verbLo := (rangeEmpty_eq_true_iff _).mp hempty
    exact ⟨fun _ => rfl, fun hnoun hverb => by omega⟩
  · have hbounds : s.nounLo ≤ s.nounHi ∧ s.verbLo ≤ s.verbHi := (rangeEmpty_eq_false_iff _).mp hrange
    exact ⟨fun hrange' => by omega, fun _ _ => rfl⟩

/-! ## The candidates by their number -/

theorem length_ascending (lo hi : Nat) : (ascending lo hi).length = hi + 1 - lo := List.length_range'

theorem getElem?_ascending {lo hi i : Nat} (h : i < hi + 1 - lo) : (ascending lo hi)[i]? = some (lo + i) := by
  rw [ascending, List.getElem?_range' h, Nat.one_mul]

theorem length_candidates (s : State) :
    (candidates s).length = (s.nounHi + 1 - s.nounLo) * (s.verbHi + 1 - s.verbLo) := by
  simp [candidates, List.length_flatMap, length_ascending]

/-- Of all pairs of two lists, the first coordinate outer, number `i * w + j` is made of members `i` and `j`, where `w` is the
length of the second list. -/
theorem getElem?_flatMap_pairs {ns vs : List Nat} {i j n v : Nat} (hn : ns[i]? = some n) (hv : vs[j]? = some v) :
    (ns.flatMap fun n => vs.map fun v => (n, v))[i * vs.length + j]? = some (n, v) := by
  obtain ⟨hj, -⟩ := List.getElem?_eq_some_iff.mp hv
  induction ns generalizing i with
  | nil => simp at hn
  | cons m ns ih =>
    rw [List.flatMap_cons]
    cases i with
    | zero =>
      rw [List.getElem?_append_left (by simpa using hj)]
      simp_all
    | succ i =>
      have hskip : (i + 1) * vs.length + j = (vs.map fun v => (m, v)).length + (i * vs.length + j) := by
        rw [List.length_map, Nat.succ_mul]
        omega
      rw [hskip, List.getElem?_append_right (Nat.le_add_right _ _), Nat.add_sub_cancel_left]
      exact ih (by simpa using hn)

theorem getElem?_candidates {s : State} {k : Nat} (h : k < (candidates s).length) :
    (candidates s)[k]? = some (s.nounLo + k / (s.verbHi + 1 - s.verbLo), s.verbLo + k % (s.verbHi + 1 - s.verbLo)) := by
  rw [length_candidates] at h
  have hpos : 0 < s.verbHi + 1 - s.verbLo := Nat.pos_of_lt_mul_left h
  have hnoun := getElem?_ascending (lo := s.nounLo) (hi := s.nounHi) ((Nat.div_lt_iff_lt_mul hpos).mpr h)
  have hverb := getElem?_ascending (lo := s.verbLo) (hi := s.verbHi) (Nat.mod_lt k hpos)
  simpa only [candidates, length_ascending, Nat.div_add_mod'] using getElem?_flatMap_pairs hnoun hverb

/-- Settles O46: the bounds of reset make 100 verbs of 100 nouns. -/
theorem candidatesAreEnumeratedNounMajor : Obligations.CandidatesAreEnumeratedNounMajor := by
  refine ⟨fun s k _ _ => ⟨length_candidates s, getElem?_candidates⟩, fun c k hk => ?_⟩
  have hget := getElem?_candidates (s := State.initial c) (k := k) (by simpa [length_candidates, State.initial] using hk)
  simpa [State.initial] using hget

end Sys2Proof.Machine

/-! # The bounds on runs and searches, and a second search (41_halt_and_sequencing.md rule R148, 43_search.md section 4)

The number of the machine's steps is counted along the run of a candidate and along the loops of rule R182. A second search
goes over the same candidates from the same inputs, and a candidate's trial overwrites all that the first search has left. -/

namespace Sys2Proof.Machine

/-! ## Bounded runs of the machine -/

/-- The machine goes from `s` to `t` in at most `b` steps. -/
def reachesWithin (b : Nat) (s t : State) : Prop := ∃ k ≤ b, Sys2Proof.core.run k s = .next t

section BoundedRuns

variable {s t u : State} {b c n v : Nat}

theorem reachesWithin_refl (b : Nat) (s : State) : reachesWithin b s s := ⟨0, Nat.zero_le b, rfl⟩

theorem reachesWithin_of_step (hstep : step s = .next t) (h : reachesWithin b t u) : reachesWithin (b + 1) s u := by
  obtain ⟨k, hk, hrun⟩ := h
  exact ⟨k + 1, Nat.succ_le_succ hk, (run_succ_of_next k hstep).trans hrun⟩

theorem reachesWithin_trans (h : reachesWithin b s t) (h' : reachesWithin c t u) : reachesWithin (b + c) s u := by
  obtain ⟨j, hj, hrun⟩ := h
  obtain ⟨k, hk, hrun'⟩ := h'
  exact ⟨j + k, Nat.add_le_add hj hk, run_trans j k hrun hrun'⟩

theorem reachesWithin_mono (hbc : b ≤ c) (h : reachesWithin b s t) : reachesWithin c s t := by
  obtain ⟨k, hk, hrun⟩ := h
  exact ⟨k, hk.trans hbc, hrun⟩

/-- With the sequencer started, the machine takes no more steps than the run. -/
theorem reachesWithin_runFuel (k : Nat) (hs : sequencerStarted s = true) : reachesWithin k s (runFuel k s) := by
  induction k generalizing s with
  | zero => exact reachesWithin_refl 0 s
  | succ k ih =>
    by_cases hr : s.runState = .running
    · obtain ⟨t, ht⟩ := sequencerStep_total hr
      have hstarted := (sequencerStarted_of_searcherUnchanged (sequencerStep_frame hr ht)).trans hs
      rw [runFuel_succ_of_next k hr ht]
      exact reachesWithin_of_step ((step_of_started hs hr).trans ht) (ih hstarted)
    · rw [runFuel_of_not_running (k + 1) hr]
      exact reachesWithin_refl (k + 1) s

theorem reachesWithin_runToEnd (hs : sequencerStarted s = true) : reachesWithin (s.memLen / 4 + 1) s (runToEnd s) :=
  reachesWithin_runFuel (s.memLen / stride + 1) hs

/-- A candidate takes one step to set up, those of its run, one to see the run's end and one to check it. -/
theorem reachesWithin_checkPhase (ha : s.runActive = false) (hp : s.phase = .load n v) :
    reachesWithin (s.baseLen / 4 + 4) s (checkPhase n v (tryCandidate n v s)) := by
  obtain ⟨-, -, -, -, hactive, -⟩ := tryCandidate_searchInputs n v s
  have hended : (tryCandidate n v s).runState ≠ .running := runToEnd_not_running (setUpCandidate n v s)
  have hstarted : sequencerStarted (loadPhase n v s) = true := (sequencerStarted_iff _).mpr (.inr ⟨n, v, rfl⟩)
  obtain ⟨hlen, -⟩ := loadPhase_machine n v s
  have hrun : reachesWithin (s.baseLen / 4 + 1) (loadPhase n v s) (toPhase (tryCandidate n v s) (.exec n v)) := by
    have hcandidate := reachesWithin_runToEnd hstarted
    rwa [memLen_eq, hlen, loadPhase, runToEnd_toPhase] at hcandidate
  have hchecked : reachesWithin 2 (toPhase (tryCandidate n v s) (.exec n v)) (checkPhase n v (tryCandidate n v s)) :=
    ⟨2, le_rfl, run_two_of_exec (hactive.trans ha) hended⟩
  have hloaded := reachesWithin_trans hrun hchecked
  exact reachesWithin_of_step (step_of_load ha hp) hloaded

/-- From the phase `Load` of a candidate the loops over it and the candidates after it take that much for each. -/
theorem reachesWithin_searchOver (cs : List (Nat × Nat)) (ha : s.runActive = false) (hp : s.phase = .load n v)
    (hr : inRange s n v) (hcs : candidatesFrom s n v = cs) :
    reachesWithin (cs.length * (s.baseLen / 4 + 4)) s (searchOver cs s) := by
  induction cs generalizing s n v with
  | nil =>
    obtain ⟨-, -, -, hv⟩ := hr
    obtain ⟨rest, hrest⟩ := exists_candidatesFrom_eq_cons n hv
    exact absurd (hcs.symm.trans hrest) (by simp)
  | cons c rest ih =>
    rw [List.length_cons, Nat.succ_mul, Nat.add_comm]
    have hfirst := reachesWithin_checkPhase ha hp
    obtain e | ⟨n', v', hr', hnext, hm, e⟩ := checkPhase_tryCandidate_cases hr <;> rw [e] at hfirst
    · rw [← hcs]
      exact reachesWithin_mono (Nat.le_add_right _ _) hfirst
    · obtain ⟨rfl, hrest⟩ := List.cons.inj (hnext.symm.trans hcs)
      obtain ⟨-, hbase, -, hbounds, hactive, -⟩ := searchInputsUnchanged_toPhase (.load n' v')
        (searchInputsUnchanged_countFault (tryCandidate_searchInputs n v s))
      have hothers := ih (hactive.trans ha) (toPhase_phase _ _) (inRange_of_boundsUnchanged hbounds hr')
        ((candidatesFrom_of_boundsUnchanged hbounds n' v').trans hrest)
      rw [searchOver_toPhase, baseLen_eq, hbase, ← searchOver_cons_of_not_match rest hm] at hothers
      exact reachesWithin_trans hfirst hothers

/-- An accepted SEARCH is one step, and then its loops. -/
theorem reachesWithin_startSearch (target : Nat) (ha : s.runActive = false) :
    reachesWithin ((candidates s).length * (s.baseLen / 4 + 4)) (startSearch target s) (searchWhole target s) := by
  cases hempty : rangeEmpty s with
  | true =>
    rw [searchWhole, candidates_of_rangeEmpty hempty, startSearch, if_pos hempty]
    exact reachesWithin_refl _ _
  | false =>
    obtain ⟨hnoun, hverb⟩ := (rangeEmpty_eq_false_iff s).mp hempty
    have hloops := reachesWithin_searchOver (candidates s) (n := s.nounLo) (v := s.verbLo)
      (s := toPhase (beginSearch target s) (.load s.nounLo s.verbLo)) ha rfl
      ⟨le_rfl, hnoun, le_rfl, hverb⟩ (candidates_eq_candidatesFrom hnoun).symm
    rw [searchOver_toPhase] at hloops
    rw [startSearch, if_neg (by simp [hempty])]
    exact hloops

end BoundedRuns

/-- Settles O25: the steps of the whole run, which does not end in `Running`. -/
theorem runEndsWithinBound : Obligations.RunEndsWithinBound := by
  intro s hs
  obtain ⟨k, hk, hrun⟩ := reachesWithin_runToEnd hs
  refine ⟨k, runToEnd s, hk, hrun, ?_⟩
  cases hr : (runToEnd s).runState with
  | running => exact absurd hr (runToEnd_not_running s)
  | halted => exact .inl rfl
  | faulted => exact .inr rfl

/-- Settles O48: the acceptance, and the loops over as many candidates as the range has pairs. -/
theorem searchEndsWithinBound : Obligations.SearchEndsWithinBound := by
  intro s target rest hc hfit
  have hstep := (step_of_nextCommand hc).trans
    (congrArg _ (accept_search_of_not_refusedBy (s := withPending s rest) hfit))
  obtain ⟨hquiescent, -⟩ := hc
  obtain ⟨hactive, -⟩ := (quiescent_iff s).mp hquiescent
  obtain ⟨k, hk, hrun⟩ := reachesWithin_of_step hstep (reachesWithin_startSearch (s := withPending s rest) target hactive)
  obtain ⟨⟨-, -, -, -, -, hpending⟩, hdone⟩ :=
    searchOver_frame (candidates (withPending s rest)) (beginSearch target (withPending s rest))
  obtain ⟨_, -, -, hend⟩ := sfcntCountsFaultedCandidates (withPending s rest) target
  refine ⟨k, _, ?_, hrun, rfl, hpending, hdone, ?_⟩
  · rw [length_candidates, Nat.add_comm] at hk
    exact hk
  · obtain ⟨hnotFound, -⟩ | ⟨hfound, -⟩ := hend
    · exact .inr hnotFound
    · exact .inl hfound

/-! ## A second search -/

/-- The state `s` with the Machine, the pair and the phase of `t`. -/
def withTrialOf (s t : State) : State :=
  { s with mem := t.mem, ip := t.ip, runState := t.runState, fcause := t.fcause, finfo := t.finfo, fslot := t.fslot,
           noun := t.noun, verb := t.verb, phase := t.phase }

/-- A candidate's trial overwrites the Machine and the pair, and carries the phase along. -/
theorem tryCandidate_withTrialOf (n v : Nat) (s t : State) :
    tryCandidate n v (withTrialOf s t) = toPhase (tryCandidate n v s) t.phase :=
  tryCandidate_toPhase n v s t.phase

/-- With a candidate to try, the loops end in the same state from whatever an earlier search has left. -/
theorem searchOver_withTrialOf {cs : List (Nat × Nat)} (hcs : cs ≠ []) (s t : State) :
    searchOver cs (withTrialOf s t) = searchOver cs s := by
  obtain _ | ⟨⟨n, v⟩, rest⟩ := cs
  · exact absurd rfl hcs
  rw [← searchOver_toPhase _ s t.phase, searchOver, searchOver, tryCandidate_withTrialOf, tryCandidate_toPhase]

/-- What a search leaves to the next one, when that begins: the Machine, the pair and the phase. -/
theorem beginSearch_searchWhole (target : Nat) (s : State) :
    beginSearch target (searchWhole target s) = withTrialOf (beginSearch target s) (searchWhole target s) := by
  obtain ⟨⟨hcfg, hbase, -, ⟨hnounLo, hnounHi, hverbLo, hverbHi⟩, hactive, hpending⟩, -⟩ :=
    searchOver_frame (candidates s) (beginSearch target s)
  rw [← searchWhole] at *
  simp only [beginSearch, withTrialOf, hcfg, hbase, hnounLo, hnounHi, hverbLo, hverbHi, hactive, hpending]

theorem candidates_searchWhole (target : Nat) (s : State) : candidates (searchWhole target s) = candidates s := by
  obtain ⟨⟨-, -, -, ⟨hnounLo, hnounHi, hverbLo, hverbHi⟩, -⟩, -⟩ := searchOver_frame (candidates s) (beginSearch target s)
  rw [searchWhole, candidates, hnounLo, hnounHi, hverbLo, hverbHi]
  rfl

/-- Settles O53: with no candidate both searches end at once; otherwise the loops do not look at what the first has left. -/
theorem searchIsReproducible : Obligations.SearchIsReproducible := by
  intro s target
  by_cases hnone : candidates s = []
  · have hwhole : searchWhole target s = finishNotFound (beginSearch target s) := by rw [searchWhole, hnone, searchOver]
    rw [searchWhole, candidates_searchWhole, hnone, hwhole]
    rfl
  · rw [searchWhole, candidates_searchWhole, beginSearch_searchWhole, searchOver_withTrialOf hnone]
    rfl

end Sys2Proof.Machine
